-- ==== Sys2Proof/Word.lean ====
section
/-! DEFINITION. The widths the spec names: timestamps, register words, addresses and frame vectors. -/

namespace Sys2Proof

/-- One byte of an encoded operation (the model's own framing, log 7). -/
abbrev Byte := BitVec 8

/-- A timestamp in microsecond ticks (00_scope.md R13). `W ≤ 32` bits of it are used (R8). -/
abbrev Ts := BitVec 32

/-- A word index into the register space (10_state.md R35). -/
abbrev RegAddr := BitVec 6

/-- One word of the register space (10_state.md R35). -/
abbrev RegWord := BitVec 32

/-- A frame vector: bit `k` is frame bit `k` (30_encoding.md R78). -/
abbrev FrameVec := BitVec 59

/-- The input bundle as one word (the model's own packing, log 7). -/
abbrev BundleWord := BitVec 48

end Sys2Proof
end

