-- ==== Sys2Proof/Syntax.lean ====
section
/-! DEFINITION. The operations of spec/opcode_table.json (30_encoding.md R74 to R76), the input bundle of one cycle (R70) and
the table's three encoding formats. -/

namespace Sys2Proof

/-- The input bundle, sampled once per cycle (30_encoding.md R70). Only the low `W` bits of `edgeTs` are the port (log 19). -/
structure Bundle where
  /-- synchronous reset -/
  rst : Bool
  /-- an edge event is offered this cycle -/
  edgeValid : Bool
  /-- the level after the transition: true is high -/
  edgeLvl : Bool
  /-- the timestamp of the edge -/
  edgeTs : Ts
  /-- capture enable, a level -/
  capEn : Bool
  /-- begin an analysis cycle -/
  start : Bool
  /-- host register read this cycle -/
  regRd : Bool
  /-- word index of the register to read -/
  regAddr : RegAddr
  deriving DecidableEq, Repr

/-- The bundle of a host that drives every input 0: a NOP cycle (46_host_access.md R246). -/
def Bundle.idle : Bundle :=
  { rst := false, edgeValid := false, edgeLvl := false, edgeTs := 0, capEn := false, start := false, regRd := false, regAddr := 0 }

/-- The operations of the block, one constructor per row of the opcode table, with the operands each takes from the input
bundle. -/
inductive Instr where
  /-- RESET (70_reset_and_hazards.md R281) -/
  | reset
  /-- EDGE (40_capture.md R101): `edge_ts`, `edge_lvl` and this cycle's `cap_en` -/
  | edge (ts : Ts) (lvl capEn : Bool)
  /-- START (40_capture.md R111) -/
  | start
  /-- READ (46_host_access.md R240): `reg_addr` and this cycle's `cap_en`, which STATUS shows -/
  | read (addr : RegAddr) (capEn : Bool)
  /-- NOP (46_host_access.md R246) -/
  | nop
  /-- SNAP_CLOSE (40_capture.md R113) -/
  | snapClose
  /-- ANALYZE (45_signal_classify.md R230) -/
  | analyze
  /-- EXTRACT, stage 1 of ANALYZE (41_pulse_extract.md R133, R135) -/
  | extract
  /-- CLASSIFY, stage 2 (42_bit_classify.md R150) -/
  | classify
  /-- SYNC, stage 3 (43_frame_sync.md R165) -/
  | sync
  /-- DECODE, stage 4 (44_frame_decode.md R192, R193) -/
  | decode
  /-- STATS, stage 5 (45_signal_classify.md R212 to R222) -/
  | stats
  /-- VERDICT, stage 6 (45_signal_classify.md R226) -/
  | verdict
  /-- COMMIT, stage 7 (45_signal_classify.md R227, R230) -/
  | commit
  deriving DecidableEq, Repr

/-- The "format" column of spec/opcode_table.json: which bits select the row. -/
inductive Format where
  /-- the control vector of the input bundle (30_encoding.md R74) -/
  | ctl
  /-- the phase register (30_encoding.md R75) -/
  | phase
  /-- the phase register and the notional stage number (30_encoding.md R76, log 8) -/
  | stage
  deriving DecidableEq, Repr

end Sys2Proof
end

