-- ==== Sys2Proof/Config.lean ====
section
/-! DEFINITION. The block's parameters (00_scope.md R8) and the values the spec leaves free (93_implementation_defined.md
U1, U2, U5, U6, U20). -/

namespace Sys2Proof

/-- Which edges count as rising edges (00_scope.md R8, 41_pulse_extract.md R135). -/
inductive RisingDef where
  /-- the high edge of every low-to-high pair -/
  | transition
  /-- every edge whose level is high -/
  | levelHigh
  deriving DecidableEq, Repr

/-- Which gaps `marker_like` counts (00_scope.md R8, 45_signal_classify.md R220). -/
inductive MarkerGaps where
  /-- gaps of consecutive rising edges -/
  | rising
  /-- gaps of consecutive pulse starts -/
  | pulseStart
  deriving DecidableEq, Repr

/-- The parameters fixed when the block is built (00_scope.md R8, 70_reset_and_hazards.md R284). A state carries them, so a
statement over all states holds for every value of them (log 1). -/
structure Config where
  /-- `C`, the capture-buffer capacity in edges -/
  cap : Nat
  /-- `W`, the timestamp width in bits -/
  width : Nat
  /-- `RISING_DEF` -/
  risingDef : RisingDef
  /-- `MARKER_GAPS` -/
  markerGaps : MarkerGaps
  deriving DecidableEq, Repr

/-- The defaults of 00_scope.md R8. -/
def Config.standard : Config :=
  { cap := 2048, width := 32, risingDef := .transition, markerGaps := .rising }

/-- FREE VALUE (log 3). `closeDraw()` of cycle `n` (40_capture.md R100), when the state lists no draw for that cycle. -/
opaque Config.closeDraw : Nat → Bool

/-- FREE VALUE (log 3). `commitDraw()` of cycle `n` (40_capture.md R100), when the state lists no draw for that cycle. -/
opaque Config.commitDraw : Nat → Bool

/-- FREE VALUE (log 4). The bits capture-RAM slot `i` holds before anything has written it (10_state.md R21, U1). -/
opaque Config.capRamBits : Nat → BitVec 33

/-- FREE VALUE (log 4). The bits snapshot-RAM slot `j` holds before anything has written it (10_state.md R31, U2). -/
opaque Config.snapRamBits : Nat → BitVec 33

end Sys2Proof
end

