-- ==== Sys2Proof/WellFormed.lean ====
section
/-! DEFINITION. What the spec admits as parameters, input bundles and operands (00_scope.md R8, 30_encoding.md R70). -/

namespace Sys2Proof

/-- The legal parameter values (00_scope.md R8): `1 ≤ C ≤ 65536` and `22 ≤ W ≤ 32`. -/
abbrev Config.Legal (c : Config) : Prop :=
  1 ≤ c.cap ∧ c.cap ≤ 65536 ∧ 22 ≤ c.width ∧ c.width ≤ 32

/-- A timestamp that fits the `W`-bit port (30_encoding.md R70). -/
abbrev Ts.fits (w : Nat) (t : Ts) : Prop := t.toNat < 2 ^ w

/-- The bundle's timestamp fits the port. Every other field has exactly its width by type. -/
def Bundle.wellFormed (w : Nat) (b : Bundle) : Bool := decide (Ts.fits w b.edgeTs)

/-- An operation's operands fit their ports. Only EDGE has an operand whose width is a parameter. -/
def Instr.wellFormed (w : Nat) : Instr → Bool
  | .edge ts _ _ => decide (Ts.fits w ts)
  | .reset | .start | .read _ _ | .nop => true
  | .snapClose | .analyze => true
  | .extract | .classify | .sync | .decode | .stats | .verdict | .commit => true

end Sys2Proof
end

