-- ==== Sys2Proof/Decode.lean ====
section
/-! DEFINITION. Decoding of the control vector, the phase and the notional stage into operations (30_encoding.md R74 to R76),
total on any bytes, and the encoder from the same table. The packing of the bundle's wires into bytes is the model's own
(log 7), as are the bytes of the two formats that have no input encoding (log 8). -/

namespace Sys2Proof

/-! ## The opcode table -/

/-- One row of spec/opcode_table.json: a row is selected when `bits &&& mask = value`. -/
structure Row where
  mnemonic : String
  format : Format
  value : Nat
  mask : Nat
  deriving DecidableEq, Repr

/-- The row of an operation (spec/opcode_table.json; 30_encoding.md R74, R75, R76). -/
def Instr.row : Instr → Row
  | .reset => ⟨"RESET", .ctl, 0b1000, 0b1000⟩
  | .edge _ _ _ => ⟨"EDGE", .ctl, 0b0001, 0b1001⟩
  | .start => ⟨"START", .ctl, 0b0010, 0b1010⟩
  | .read _ _ => ⟨"READ", .ctl, 0b0100, 0b1100⟩
  | .nop => ⟨"NOP", .ctl, 0b0000, 0b1111⟩
  | .snapClose => ⟨"SNAP_CLOSE", .phase, 0b01, 0b11⟩
  | .analyze => ⟨"ANALYZE", .phase, 0b10, 0b11⟩
  | .extract => ⟨"EXTRACT", .stage, 0b10, 0b11⟩
  | .classify => ⟨"CLASSIFY", .stage, 0b10, 0b11⟩
  | .sync => ⟨"SYNC", .stage, 0b10, 0b11⟩
  | .decode => ⟨"DECODE", .stage, 0b10, 0b11⟩
  | .stats => ⟨"STATS", .stage, 0b10, 0b11⟩
  | .verdict => ⟨"VERDICT", .stage, 0b10, 0b11⟩
  | .commit => ⟨"COMMIT", .stage, 0b10, 0b11⟩

/-- The bits select the row. -/
def Row.selects (r : Row) (bits : Nat) : Bool := bits &&& r.mask == r.value

/-! ## The input bundle as bits -/

/-- The control vector (30_encoding.md R70): `CTL[0]` edge_valid, `CTL[1]` start, `CTL[2]` reg_rd, `CTL[3]` rst. -/
def Bundle.ctl (b : Bundle) : BitVec 4 :=
  BitVec.ofNat 4 (b.edgeValid.toNat + 2 * b.start.toNat + 4 * b.regRd.toNat + 8 * b.rst.toNat)

/-- The bundle's wires as one word (log 7): CTL in bits 3..0, `cap_en` in bit 4, `edge_lvl` in bit 5, `reg_addr` in bits 11..6,
`edge_ts` in bits 43..12, and four padding zeros. -/
def Bundle.word (b : Bundle) : BundleWord :=
  BitVec.ofNat 48 (b.ctl.toNat + 2 ^ 4 * b.capEn.toNat + 2 ^ 5 * b.edgeLvl.toNat + 2 ^ 6 * b.regAddr.toNat
    + 2 ^ 12 * b.edgeTs.toNat)

/-- The bundle whose wires are the word's bits (the inverse of `Bundle.word`). -/
def Bundle.ofWord (w : BundleWord) : Bundle :=
  { edgeValid := w.getLsbD 0
    start := w.getLsbD 1
    regRd := w.getLsbD 2
    rst := w.getLsbD 3
    capEn := w.getLsbD 4
    edgeLvl := w.getLsbD 5
    regAddr := BitVec.ofNat 6 (w.toNat / 2 ^ 6)
    edgeTs := BitVec.ofNat 32 (w.toNat / 2 ^ 12) }

/-- The operations the bundle's control vector selects, in the order of one cycle (30_encoding.md R74; 40_capture.md R100):
RESET overrides all others; READ, EDGE and START may share the cycle; no bit set is NOP. -/
def Bundle.ops (b : Bundle) : List Instr :=
  [Instr.reset, .read b.regAddr b.capEn, .edge b.edgeTs b.edgeLvl b.capEn, .start, .nop].filter
    fun i => i.row.selects b.ctl.toNat

/-! ## Bytes -/

/-- Why bytes are no encoded operation. -/
inductive Reject where
  /-- the byte count is not the format's -/
  | wrongLength
  /-- a padding bit is set -/
  | padding
  /-- the phase is IDLE: no internal operation is selected (30_encoding.md R75) -/
  | idlePhase
  /-- the phase is the reserved value 3 (10_state.md R30) -/
  | reservedPhase
  /-- a stage is selected only in phase ANALYZE (30_encoding.md R76) -/
  | notInAnalyze
  /-- the stage number is not 1 to 7 (30_encoding.md R76) -/
  | noSuchStage
  deriving DecidableEq, Repr

/-- The number whose bytes these are, the lowest first (log 7). -/
def bytesToNat : List Byte → Nat
  | [] => 0
  | b :: bs => b.toNat + 256 * bytesToNat bs

/-- The low `n` bytes of a number, the lowest first (log 7). -/
def natToBytes : Nat → Nat → List Byte
  | 0, _ => []
  | n + 1, v => BitVec.ofNat 8 v :: natToBytes n (v / 256)

/-- How many bytes an encoded operation of the format has. -/
def Format.bytes : Format → Nat
  | .ctl => 6
  | .phase => 1
  | .stage => 1

/-- The internal operation the phase register selects (30_encoding.md R75). -/
def decodePhase (p : BitVec 2) : Except Reject Instr :=
  match p.toNat with
  | 0 => .error .idlePhase
  | 1 => .ok .snapClose
  | 2 => .ok .analyze
  | _ => .error .reservedPhase

/-- The stage with a number (30_encoding.md R76). -/
def decodeStage (n : Nat) : Except Reject Instr :=
  match n with
  | 1 => .ok .extract
  | 2 => .ok .classify
  | 3 => .ok .sync
  | 4 => .ok .decode
  | 5 => .ok .stats
  | 6 => .ok .verdict
  | 7 => .ok .commit
  | _ => .error .noSuchStage

/-- The operations encoded by the bytes: all those a CTL bundle selects, or the one of a phase or a stage. -/
def decode (f : Format) (bs : List Byte) : Except Reject (List Instr) :=
  if bs.length ≠ f.bytes then .error .wrongLength
  else
    let v := bytesToNat bs
    match f with
    | .ctl => if v < 2 ^ 44 then .ok (Bundle.ofWord (BitVec.ofNat 48 v)).ops else .error .padding
    | .phase => if v < 4 then (decodePhase (BitVec.ofNat 2 v)).map ([·]) else .error .padding
    | .stage =>
      if 32 ≤ v then .error .padding
      else if v % 4 ≠ 2 then .error .notInAnalyze
      else (decodeStage (v / 4)).map ([·])

/-! ## The encoder -/

/-- The notional stage number of 30_encoding.md R76; 0 for an operation that is no stage. -/
def Instr.stageNumber : Instr → Nat
  | .reset | .edge _ _ _ | .start | .read _ _ | .nop | .snapClose | .analyze => 0
  | .extract => 1
  | .classify => 2
  | .sync => 3
  | .decode => 4
  | .stats => 5
  | .verdict => 6
  | .commit => 7

/-- The bundle that carries one CTL operation and nothing else: its own bit of CTL and its operands (30_encoding.md R85). The
operations without an input encoding give the idle bundle. -/
def Instr.bundle : Instr → Bundle
  | .reset => { Bundle.idle with rst := true }
  | .edge ts lvl en => { Bundle.idle with edgeValid := true, edgeTs := ts, edgeLvl := lvl, capEn := en }
  | .start => { Bundle.idle with start := true }
  | .read a en => { Bundle.idle with regRd := true, regAddr := a, capEn := en }
  | .nop => Bundle.idle
  | .snapClose | .analyze => Bundle.idle
  | .extract | .classify | .sync | .decode | .stats | .verdict | .commit => Bundle.idle

/-- The encoded operation as a number: the bundle's word, the phase code, or phase code and stage number. -/
def Instr.bits (i : Instr) : Nat :=
  match i.row.format with
  | .ctl => i.bundle.word.toNat
  | .phase => i.row.value
  | .stage => i.row.value + 4 * i.stageNumber

/-- The encoded operation: its format and its bytes. -/
def encode (i : Instr) : Format × List Byte := (i.row.format, natToBytes i.row.format.bytes i.bits)

/-! ## The table's own words -/

/-- The format of a table word of `nbits` bits: the CTL rows of spec/opcode_table.json are four bits wide, the PHASE rows two. A
word given in whole bytes is read as CTL (log 8). -/
def tableFormat (nbits : Nat) : Format := if nbits < 4 then .phase else .ctl

/-- The operation the decoder reads from a table word: the first of the cycle's operations. -/
def decodeTableWord (nbits w : Nat) : Option Instr :=
  match decode (tableFormat nbits) (natToBytes (tableFormat nbits).bytes w) with
  | .ok (i :: _) => some i
  | .ok [] => none
  | .error _ => none

end Sys2Proof
end

