-- ==== Sys2Proof/Machine/State.lean ====
section
/-! DEFINITION. The state of the block (10_state.md), the values it holds, the reasons a step can stop, and the state after
reset (70_reset_and_hazards.md R280, R286). -/

namespace Sys2Proof.Machine

open Sys2Proof

/-! ## Values -/

/-- An edge (00_scope.md R13): its timestamp and the line's level after the transition (true is high). -/
structure Edge where
  ts : Ts
  lvl : Bool
  deriving DecidableEq, Repr

/-- A closed low pulse (00_scope.md R13): its start and its duration in microseconds. -/
structure Pulse where
  start : Ts
  dur : Int
  deriving DecidableEq, Repr

/-- A bit class (00_scope.md R13, 30_encoding.md R77). -/
inductive BitClass where
  | zero
  | one
  | invalid
  deriving DecidableEq, Repr

/-- A decoded record (00_scope.md R13), each field in the width 10_state.md R33 gives it (log 13). -/
structure Record where
  minute : BitVec 8
  hour : BitVec 7
  day : BitVec 6
  weekday : BitVec 3
  month : BitVec 5
  year : BitVec 8
  deriving DecidableEq, Repr

/-- The all-zero record of an empty sample slot (45_signal_classify.md R230). -/
def Record.zero : Record := { minute := 0, hour := 0, day := 0, weekday := 0, month := 0, year := 0 }

/-- The result code held in `res_result` (30_encoding.md R79). -/
inductive ResultCode where
  | none
  | ok
  | insufficientEdges
  | noClosedPulses
  deriving DecidableEq, Repr

/-- The verdict held in `res_verdict` (30_encoding.md R80). -/
inductive Verdict where
  | none
  | likelySignal
  | likelyNoise
  | uncertain
  deriving DecidableEq, Repr

/-- The four values of the 2-bit phase register (10_state.md R30). No rule reaches `reserved`. -/
inductive Phase where
  | idle
  | snap
  | analyze
  | reserved
  deriving DecidableEq, Repr

/-- An edge RAM (20_memory.md R50): the slots that have been written, by index. The canonical form has the indices strictly
rising (`Memory.wf`). A slot not listed has never been written and reads as a free value (log 4). -/
abbrev Memory := List (Nat × Edge)

/-- The result registers (10_state.md R33), written all at once by a commit. -/
structure Results where
  result : ResultCode
  verdict : Verdict
  snapLen : BitVec 17
  /-- two's complement -/
  span : BitVec 32
  pulseCount : BitVec 16
  short : BitVec 16
  long : BitVec 16
  other : BitVec 16
  durSum : BitVec 64
  secLike : BitVec 17
  markerLike : BitVec 17
  frames : BitVec 16
  nsamples : BitVec 2
  sample0 : Record
  sample1 : Record
  sample2 : Record
  deriving DecidableEq, Repr

/-- The result registers after reset (10_state.md R33, 70_reset_and_hazards.md R280). -/
def Results.zero : Results :=
  { result := .none, verdict := .none, snapLen := 0, span := 0, pulseCount := 0, short := 0, long := 0, other := 0
    durSum := 0, secLike := 0, markerLike := 0, frames := 0, nsamples := 0
    sample0 := Record.zero, sample1 := Record.zero, sample2 := Record.zero }

/-- The window statistics (45_signal_classify.md R211), exact. -/
structure Stats where
  pulseCount : Nat
  span : Int
  short : Nat
  long : Nat
  other : Nat
  durSum : Int
  secLike : Nat
  markerLike : Nat
  frames : Nat
  deriving DecidableEq, Repr

/-- No statistics. -/
def Stats.zero : Stats :=
  { pulseCount := 0, span := 0, short := 0, long := 0, other := 0, durSum := 0, secLike := 0, markerLike := 0, frames := 0 }

/-- What the stages of ANALYZE hand to one another (30_encoding.md R76). The model's own: it is empty at every cycle boundary,
because ANALYZE is one atomic step (log 10). -/
structure Work where
  /-- stage 1: the pulse list `PL` -/
  pulses : List Pulse
  /-- stage 1: the rising-edge list `R` -/
  rising : List Ts
  /-- stage 2: the class of each pulse -/
  classes : List BitClass
  /-- stage 3: the candidate list `CF` -/
  cands : List FrameVec
  /-- stage 4: the decoded list `DF` -/
  decoded : List Record
  /-- stage 5 -/
  stats : Stats
  /-- stage 6 -/
  verdict : Verdict
  deriving DecidableEq, Repr

/-- Nothing handed over. -/
def Work.empty : Work :=
  { pulses := [], rising := [], classes := [], cands := [], decoded := [], stats := Stats.zero, verdict := .none }

/-- The outputs driven in a cycle (30_encoding.md R71). -/
structure Outputs where
  regRdata : RegWord
  busy : Bool
  deriving DecidableEq, Repr

/-- One cycle's draws (40_capture.md R100): whether the snapshot window closes, and whether the analysis commits, if the cycle
is one in which that can happen. -/
structure Draw where
  close : Bool
  commit : Bool
  deriving DecidableEq, Repr

/-! ## State -/

/-- The whole state (10_state.md), the block's parameters, and the model's own record of what the environment does. -/
@[ext]
structure State where
  /-- parameters (00_scope.md R8); no step changes them (70_reset_and_hazards.md R284, log 1) -/
  cfg : Config
  /-- `CAPMEM` (10_state.md R21) -/
  capMem : Memory
  /-- `wptr` (10_state.md R22) -/
  wptr : BitVec 16
  /-- `count` (10_state.md R23) -/
  count : BitVec 17
  /-- `last_ts` (10_state.md R24) -/
  lastTs : Ts
  /-- `last_valid` (10_state.md R24) -/
  lastValid : Bool
  /-- `phase` (10_state.md R30) -/
  phase : Phase
  /-- `SNAPMEM` (10_state.md R31) -/
  snapMem : Memory
  /-- `snap_len` (10_state.md R31) -/
  snapLen : BitVec 17
  /-- `res_*` (10_state.md R33) -/
  res : Results
  /-- the outputs of the last cycle (30_encoding.md R71, log 12) -/
  out : Outputs
  /-- values inside one ANALYZE step (log 10) -/
  work : Work
  /-- the input bundles of the cycles to come, the next one first (30_encoding.md R85, log 2) -/
  stim : List Bundle
  /-- the draws of the cycles to come, the next one first (log 3) -/
  draws : List Draw
  /-- how many cycles have run: the index of the free draws once `draws` is used up (log 3) -/
  cycle : Nat
  deriving DecidableEq, Repr

/-- The state after a reset cycle, `clean` of 70_reset_and_hazards.md R286, with the default parameters, unwritten RAMs (log 4),
`last_ts` 0 (log 5), nothing driven (log 12), and nothing listed of what the environment will do (logs 2 and 3). -/
def State.reset : State :=
  { cfg := Config.standard
    capMem := []
    wptr := 0
    count := 0
    lastTs := 0
    lastValid := false
    phase := .idle
    snapMem := []
    snapLen := 0
    res := Results.zero
    out := { regRdata := 0, busy := false }
    work := Work.empty
    stim := []
    draws := []
    cycle := 0 }

/-! ## Stops -/

/-- Why the machine stops. The block itself never faults (60_exceptions.md R278). -/
inductive Fault where
  /-- Raised by `step` in a cycle without `rst` that starts with `phase = 3`, a value no rule reaches: the model-error fault of
  60_exceptions.md R279 and 93_implementation_defined.md U13. Safe (log 11). -/
  | reservedPhase
  deriving DecidableEq, Repr

/-- Why an operation has no meaning. -/
inductive Refusal where
  /-- Answered by an arm of `exec` for an operation without a meaning. Safe. No arm answers it. -/
  | notModelled (mnemonic : String)
  deriving DecidableEq, Repr

end Sys2Proof.Machine
end

