-- ==== Sys2Proof/Machine/Constants.lean ====
section
/-! DEFINITION. The fixed constants of 00_scope.md R9, in microseconds or counts. -/

namespace Sys2Proof.Machine

/-- `T_DEB`, 20 ms. -/
def tDeb : Int := 20000
/-- `ZERO_MIN`, 60 ms. -/
def zeroMin : Int := 60000
/-- `ZERO_MAX`, 140 ms. -/
def zeroMax : Int := 140000
/-- `ONE_MIN`, 160 ms. -/
def oneMin : Int := 160000
/-- `ONE_MAX`, 260 ms. -/
def oneMax : Int := 260000
/-- `GAP_MARK`, 1.2 s. -/
def gapMark : Int := 1200000
/-- `SEC_MIN`, 0.9 s. -/
def secMin : Int := 900000
/-- `SEC_MAX`, 1.1 s. -/
def secMax : Int := 1100000
/-- `FRAME_LEN`. -/
def frameLen : Nat := 59
/-- `MIN_EDGES`. -/
def minEdges : Nat := 4
/-- `SIG_SEC_MIN`. -/
def sigSecMin : Nat := 10
/-- `SIG_MARK_MIN`. -/
def sigMarkMin : Nat := 1
/-- `SIG_SL_RATIO`. -/
def sigSlRatio : Rat := 3 / 5
/-- `SIG_OTHER_RATIO`. -/
def sigOtherRatio : Rat := 3 / 10
/-- `NOISE_SEC_LIM`. -/
def noiseSecLim : Nat := 3
/-- `NOISE_SL_RATIO`. -/
def noiseSlRatio : Rat := 1 / 2
/-- `NOISE_OTHER_RATIO`. -/
def noiseOtherRatio : Rat := 1 / 2
/-- `MAX_SAMPLES`. -/
def maxSamples : Nat := 3

end Sys2Proof.Machine
end

