-- ==== Sys2Proof/Machine/Operands.lean ====
section
/-! DEFINITION. Operand assembly and codes: the wraparound-safe difference (41_pulse_extract.md R130), the edge word
(30_encoding.md R72, R73), and the codes of 10_state.md R30 and 30_encoding.md R77 to R80. -/

namespace Sys2Proof.Machine

open Sys2Proof

/-- `sext_n(v)`: the low `n` bits of `v` read as two's complement (00_scope.md R11). -/
def sext (n : Nat) (v : Int) : Int :=
  if v % 2 ^ n < 2 ^ (n - 1) then v % 2 ^ n else v % 2 ^ n - 2 ^ n

/-- `wrapdiff(b, a)` for `W = w` (41_pulse_extract.md R130). -/
def wrapdiff (w : Nat) (b a : Ts) : Int := sext w (((b.toNat : Int) - (a.toNat : Int)) % 2 ^ w)

/-- `zext_W(v)`: the `W`-bit timestamp on a port (00_scope.md R11, 30_encoding.md R73). -/
def zextTs (w : Nat) (v : Ts) : Ts := BitVec.ofNat 32 (v.toNat % 2 ^ w)

/-- The edge word `EW = ts * 2 + lvl` (30_encoding.md R72). -/
def Edge.word (e : Edge) : BitVec 33 := BitVec.ofNat 33 (e.ts.toNat * 2 + e.lvl.toNat)

/-- The edge in the low `W + 1` bits of a word (30_encoding.md R72). -/
def Edge.ofWord (w : Nat) (ew : BitVec 33) : Edge :=
  { ts := BitVec.ofNat 32 (ew.toNat / 2 % 2 ^ w), lvl := ew.getLsbD 0 }

/-- The phase register's bits (10_state.md R30). -/
def Phase.code : Phase → BitVec 2
  | .idle => 0
  | .snap => 1
  | .analyze => 2
  | .reserved => 3

/-- The phase with given bits (10_state.md R30). -/
def Phase.ofCode (c : BitVec 2) : Phase :=
  match c.toNat with
  | 0 => .idle
  | 1 => .snap
  | 2 => .analyze
  | _ => .reserved

/-- The bit-class code (30_encoding.md R77). -/
def BitClass.code : BitClass → BitVec 2
  | .zero => 0
  | .one => 1
  | .invalid => 2

/-- The result code (30_encoding.md R79). -/
def ResultCode.code : ResultCode → BitVec 2
  | .none => 0
  | .ok => 1
  | .insufficientEdges => 2
  | .noClosedPulses => 3

/-- The verdict code (30_encoding.md R80). -/
def Verdict.code : Verdict → BitVec 2
  | .none => 0
  | .likelySignal => 1
  | .likelyNoise => 2
  | .uncertain => 3

end Sys2Proof.Machine
end

