-- ==== Sys2Proof/Machine/Ops.lean ====
section
/-! DEFINITION. The named operations over the two RAMs (20_memory.md R51, R53), the ring of recorded edges (10_state.md R25), and
the one shared way an analysis ends early (60_exceptions.md R261). -/

namespace Sys2Proof.Machine

open Sys2Proof

/-! ## Edge RAM -/

/-- The canonical form: slot indices strictly rising, so that equal RAMs are equal lists. -/
abbrev Memory.wf (m : Memory) : Prop := m.Pairwise fun x y => x.1 < y.1

/-- What has been written to a slot, if anything has. -/
def Memory.read : Memory → Nat → Option Edge
  | [], _ => none
  | (a, e) :: m, i => if a = i then some e else Memory.read m i

/-- Replace a slot (20_memory.md R51). -/
def Memory.write : Memory → Nat → Edge → Memory
  | [], i, e => [(i, e)]
  | (a, x) :: m, i, e =>
    if i < a then (i, e) :: (a, x) :: m
    else if a = i then (i, e) :: m
    else (a, x) :: Memory.write m i e

/-- `SnapWrite(j, es[j])` for every `j < len(es)` (20_memory.md R53): the slots from 0 on take the edges, all others keep what
they hold. -/
def Memory.overlay (m : Memory) (es : List Edge) : Memory :=
  (es.zipIdx.map fun p => (p.2, p.1)) ++ m.filter fun c => decide (es.length ≤ c.1)

/-- `CapRead(i)` (20_memory.md R51): a slot nothing has written holds a free value (U1, log 4). -/
def capRead (s : State) (i : Nat) : Edge :=
  match s.capMem.read i with
  | some e => e
  | none => Edge.ofWord s.cfg.width (Config.capRamBits i)

/-- `CapWrite(i, e)` (20_memory.md R51). -/
def capWrite (s : State) (i : Nat) (e : Edge) : State := { s with capMem := s.capMem.write i e }

/-- `SnapRead(j)` (20_memory.md R53): a slot nothing has written holds a free value (U2, log 4). -/
def snapRead (s : State) (j : Nat) : Edge :=
  match s.snapMem.read j with
  | some e => e
  | none => Edge.ofWord s.cfg.width (Config.snapRamBits j)

/-! ## The ring and the snapshot -/

/-- The slot `(wptr - count + j) mod C` of the `j`-th oldest of the `count` valid edges (10_state.md R25, 40_capture.md R111). -/
def ringSlot (s : State) (j : Nat) : Nat :=
  (((s.wptr.toNat : Int) - (s.count.toNat : Int) + (j : Int)) % (s.cfg.cap : Int)).toNat

/-- The `count` valid edges, oldest first (10_state.md R25): what START copies (40_capture.md R111). -/
def captured (s : State) : List Edge := (List.range s.count.toNat).map fun j => capRead s (ringSlot s j)

/-- The snapshot `S = [SnapRead(0), ..., SnapRead(L-1)]` with `L = snap_len` (41_pulse_extract.md). -/
def snapshot (s : State) : List Edge := (List.range s.snapLen.toNat).map (snapRead s)

/-- Append one edge to the ring (40_capture.md R104): write the slot, advance `wptr` modulo `C`, count up to `C`, and remember the
timestamp. -/
def append (s : State) (e : Edge) : State :=
  { capWrite s s.wptr.toNat e with
    wptr := BitVec.ofNat 16 ((s.wptr.toNat + 1) % s.cfg.cap)
    count := BitVec.ofNat 17 (min (s.count.toNat + 1) s.cfg.cap)
    lastTs := e.ts
    lastValid := true }

/-! ## Ending an analysis -/

/-- What `raise` does (60_exceptions.md R261; `commitSkip` of 45_signal_classify.md R230, R231): commit the code and `L` and
nothing else, and return `phase` to IDLE. It is no trap: nothing is saved and control goes nowhere (log 6). -/
def raiseSkip (code : ResultCode) (s : State) : State :=
  { s with
    res := { Results.zero with result := code, snapLen := s.snapLen }
    phase := .idle
    work := Work.empty }

end Sys2Proof.Machine
end

