-- ==== Sys2Proof/Machine/Flags.lean ====
section
/-! DEFINITION. The status bits (10_state.md R37) and the register space (10_state.md R35, R36). -/

namespace Sys2Proof.Machine

open Sys2Proof

/-- STATUS.BUSY (10_state.md R36, R37). -/
def State.busy (s : State) : Bool := decide (s.phase ≠ .idle)

/-- STATUS.SNAP_OPEN (10_state.md R36, R37). -/
def State.snapOpen (s : State) : Bool := decide (s.phase = .snap)

/-- STATUS, register 0x00 (10_state.md R36): each field at its lowest bit. `CAP_EN` is the input in the cycle of the read. -/
def statusWord (s : State) (capEn : Bool) : RegWord :=
  BitVec.ofNat 32 (s.busy.toNat + 2 ^ 1 * s.snapOpen.toNat + 2 ^ 2 * s.res.result.code.toNat + 2 ^ 4 * s.res.verdict.code.toNat
    + 2 ^ 6 * s.res.nsamples.toNat + 2 ^ 8 * capEn.toNat)

/-- FRAMEk_A of a sample (10_state.md R36): minute from bit 0, hour from bit 8, day from bit 16, weekday from bit 24. -/
def frameA (r : Record) : RegWord :=
  BitVec.ofNat 32 (r.minute.toNat + 2 ^ 8 * r.hour.toNat + 2 ^ 16 * r.day.toNat + 2 ^ 24 * r.weekday.toNat)

/-- FRAMEk_B of a sample (10_state.md R36): month from bit 0, year from bit 8. -/
def frameB (r : Record) : RegWord := BitVec.ofNat 32 (r.month.toNat + 2 ^ 8 * r.year.toNat)

/-- `Reg(s, a)` (46_host_access.md R240): the word 10_state.md R36 assembles for an index, and 0 for 0x14 to 0x3F. -/
def readReg (s : State) (a : RegAddr) (capEn : Bool) : RegWord :=
  match a.toNat with
  | 0x00 => statusWord s capEn
  | 0x01 => s.count.setWidth 32
  | 0x02 => s.wptr.setWidth 32
  | 0x03 => s.res.snapLen.setWidth 32
  | 0x04 => s.res.span
  | 0x05 => s.res.pulseCount.setWidth 32
  | 0x06 => s.res.short.setWidth 32
  | 0x07 => s.res.long.setWidth 32
  | 0x08 => s.res.other.setWidth 32
  | 0x09 => s.res.durSum.extractLsb' 0 32
  | 0x0A => s.res.durSum.extractLsb' 32 32
  | 0x0B => s.res.secLike.setWidth 32
  | 0x0C => s.res.markerLike.setWidth 32
  | 0x0D => s.res.frames.setWidth 32
  | 0x0E => frameA s.res.sample0
  | 0x0F => frameB s.res.sample0
  | 0x10 => frameA s.res.sample1
  | 0x11 => frameB s.res.sample1
  | 0x12 => frameA s.res.sample2
  | 0x13 => frameB s.res.sample2
  | _ => 0

end Sys2Proof.Machine
end

