-- ==== Sys2Proof/Machine/Cycle.lean ====
section
/-! DEFINITION. What one cycle takes from the environment, and the order of its operations (40_capture.md R100). -/

namespace Sys2Proof.Machine

open Sys2Proof

/-- The bundle sampled in the coming cycle (30_encoding.md R70): the head of `stim`, or the idle bundle of a host that has no
further input (log 2). -/
def nextBundle (s : State) : Bundle :=
  match s.stim with
  | b :: _ => b
  | [] => Bundle.idle

/-- The draws of the coming cycle (40_capture.md R100): the head of `draws`, or the free draws of this cycle (log 3). -/
def nextDraw (s : State) : Draw :=
  match s.draws with
  | d :: _ => d
  | [] => { close := Config.closeDraw s.cycle, commit := Config.commitDraw s.cycle }

/-- What a cycle does before its operations: it takes its inputs and draws, `busy` shows the phase at the start of the cycle
(46_host_access.md R247), and `reg_rdata` is 0 unless a READ drives it (30_encoding.md R71). -/
def beginCycle (s : State) : State :=
  { s with
    stim := s.stim.tail
    draws := s.draws.tail
    cycle := s.cycle + 1
    out := { regRdata := 0, busy := s.busy } }

/-- The internal operation of the cycle, by the phase at its start and its draws (30_encoding.md R75, 40_capture.md R100). -/
def internalOps (ph : Phase) (d : Draw) : List Instr :=
  match decodePhase ph.code with
  | .ok .snapClose => if d.close then [.snapClose] else []
  | .ok .analyze => if d.commit then [.analyze] else []
  | .ok _ => []
  | .error _ => []

/-- The operations of the coming cycle in their order (40_capture.md R100): RESET alone, or READ, EDGE, START (or NOP) and then
the internal operation. -/
def cycleOps (s : State) : List Instr :=
  if (nextBundle s).rst then (nextBundle s).ops
  else (nextBundle s).ops ++ internalOps s.phase (nextDraw s)

/-- The cycle runs into the reserved phase value: it is no reset cycle and starts with `phase = 3` (60_exceptions.md R279). -/
def cycleFaults (s : State) : Bool := !(nextBundle s).rst && decide (s.phase = .reserved)

/-! ## Placing an operation where the next cycle finds it -/

/-- The state whose next cycle carries the bundle (log 9). -/
def placeBundle (s : State) (b : Bundle) : State := { s with stim := b :: s.stim.tail }

/-- The state whose next cycle is idle but for the internal operation the phase code selects (log 8). -/
def placePhase (s : State) (c : BitVec 2) : State :=
  { s with
    phase := Phase.ofCode c
    stim := Bundle.idle :: s.stim.tail
    draws := { close := true, commit := true } :: s.draws.tail }

/-- The table word placed by its format. -/
def placeTableWord (s : State) (nbits w : Nat) : State :=
  match tableFormat nbits with
  | .ctl => placeBundle s (Bundle.ofWord (BitVec.ofNat 48 w))
  | .phase | .stage => placePhase s (BitVec.ofNat 2 w)

end Sys2Proof.Machine
end

