-- ==== Sys2Proof/Machine/Capture.lean ====
section
/-! DEFINITION. The meanings of EDGE, START and SNAP_CLOSE (40_capture.md). An operation sees the phase of the start of the cycle:
in the cycle's order (R100) no operation before it has changed the phase (log 20). -/

namespace Sys2Proof.Machine

open Sys2Proof

/-- The debounce test (40_capture.md R103): the edge at `t` comes less than `T_DEB` after the last recorded one. -/
def debounced (s : State) (t : Ts) : Bool :=
  s.lastValid && decide (wrapdiff s.cfg.width t s.lastTs < tDeb)

/-- EDGE (40_capture.md R101): gating (R102), debounce (R103), append (R104). -/
def execEdge (ts : Ts) (lvl capEn : Bool) (s : State) : Host.Outcome State Fault Refusal :=
  let t := zextTs s.cfg.width ts
  if capEn = false then .next s
  else if s.phase = .snap then .next s
  else if debounced s t then .next s
  else .next (append s { ts := t, lvl := lvl })

/-- Open the snapshot window and copy the ring (40_capture.md R111, R112). -/
def openSnapshot (s : State) : State :=
  { s with snapMem := s.snapMem.overlay (captured s), snapLen := s.count, phase := .snap }

/-- START (40_capture.md R111): accepted only in phase IDLE (R116). -/
def execStart (s : State) : Host.Outcome State Fault Refusal :=
  if s.phase = .idle then .next (openSnapshot s) else .next s

/-- SNAP_CLOSE (40_capture.md R113): selected by phase SNAP (30_encoding.md R75). In any other phase it is not selected and
nothing happens (log 20). -/
def execSnapClose (s : State) : Host.Outcome State Fault Refusal :=
  if s.phase = .snap then .next { s with phase := .analyze } else .next s

end Sys2Proof.Machine
end

