-- ==== Sys2Proof/Machine/HostAccess.lean ====
section
/-! DEFINITION. The meanings of READ, NOP (46_host_access.md) and RESET (70_reset_and_hazards.md R281). -/

namespace Sys2Proof.Machine

open Sys2Proof

/-- READ (46_host_access.md R240): drive `reg_rdata`; no state changes. -/
def execRead (addr : RegAddr) (capEn : Bool) (s : State) : Host.Outcome State Fault Refusal :=
  .next { s with out := { s.out with regRdata := readReg s addr capEn } }

/-- NOP (46_host_access.md R246): `reg_rdata` is 0 and nothing else happens. -/
def execNop (s : State) : Host.Outcome State Fault Refusal :=
  .next { s with out := { s.out with regRdata := 0 } }

/-- RESET (70_reset_and_hazards.md R281): the RAMs and `last_ts` keep what they hold, the parameters and the environment are not
the block's to reset (R284), and `reg_rdata` is 0 in this cycle. -/
def execReset (s : State) : Host.Outcome State Fault Refusal :=
  .next { s with
    wptr := 0
    count := 0
    lastValid := false
    phase := .idle
    snapLen := 0
    res := Results.zero
    out := { s.out with regRdata := 0 }
    work := Work.empty }

end Sys2Proof.Machine
end

