-- ==== Sys2Proof/Machine/Extract.lean ====
section
/-! DEFINITION. Stage 1, EXTRACT: pulses and rising edges of the snapshot (41_pulse_extract.md). -/

namespace Sys2Proof.Machine

open Sys2Proof

/-- The edge-pair matcher (41_pulse_extract.md R133), with `op` the start of the pulse now open. A pulse whose duration is not
positive is closed and dropped (R134). -/
def extractFrom (w : Nat) : Option Ts → List Edge → List Pulse
  | op, a :: b :: rest =>
    if a.lvl && !b.lvl then extractFrom w (some b.ts) (b :: rest)
    else if !a.lvl && b.lvl then
      match op with
      | none => extractFrom w none (b :: rest)
      | some t =>
        if 0 < wrapdiff w b.ts t then { start := t, dur := wrapdiff w b.ts t } :: extractFrom w none (b :: rest)
        else extractFrom w none (b :: rest)
    else extractFrom w op (b :: rest)
  | _, _ => []

/-- `extract(S)` (41_pulse_extract.md R133): the pulse list `PL`. -/
def extractPulses (w : Nat) (es : List Edge) : List Pulse := extractFrom w none es

/-- `risingT(S)` (41_pulse_extract.md R135): the high edge of every low-to-high pair. -/
def risingT : List Edge → List Ts
  | a :: b :: rest => if !a.lvl && b.lvl then b.ts :: risingT (b :: rest) else risingT (b :: rest)
  | _ => []

/-- `risingH(S)` (41_pulse_extract.md R135): every high edge. -/
def risingH (es : List Edge) : List Ts := (es.filter fun e => e.lvl).map fun e => e.ts

/-- The rising-edge list `R` (41_pulse_extract.md R135), by the parameter `RISING_DEF`. -/
def risingEdges (c : Config) (es : List Edge) : List Ts :=
  match c.risingDef with
  | .transition => risingT es
  | .levelHigh => risingH es

/-- The effect of stage 1: `PL` and `R` of the snapshot (41_pulse_extract.md R139). -/
def extractStage (s : State) : State :=
  { s with work := { s.work with
      pulses := extractPulses s.cfg.width (snapshot s)
      rising := risingEdges s.cfg (snapshot s) } }

/-- EXTRACT, selected by phase ANALYZE (30_encoding.md R76); not selected, nothing happens (log 20). -/
def execExtract (s : State) : Host.Outcome State Fault Refusal :=
  if s.phase = .analyze then .next (extractStage s) else .next s

end Sys2Proof.Machine
end

