-- ==== Sys2Proof/Machine/FrameDecode.lean ====
section
/-! DEFINITION. Stage 4, DECODE: structure, parity and weighted BCD of a frame, all or nothing (44_frame_decode.md). -/

namespace Sys2Proof.Machine

open Sys2Proof

/-- Frame bit `k` as a number. -/
def frameBit (fb : FrameVec) (k : Nat) : Nat := (fb.getLsbD k).toNat

/-- `bcd(FB, lo, w)` (44_frame_decode.md R183). -/
def bcd (fb : FrameVec) : Nat → List Nat → Nat
  | _, [] => 0
  | lo, w :: ws => w * frameBit fb lo + bcd fb (lo + 1) ws

/-- How many of the frame bits `lo .. lo + n - 1` are set. -/
def bitCount (fb : FrameVec) (lo n : Nat) : Nat := ((List.range n).map fun k => frameBit fb (lo + k)).sum

/-- `parityOK(FB, lo, hi, p)` (44_frame_decode.md R184), both ends included. -/
def parityOk (fb : FrameVec) (lo hi p : Nat) : Bool := (bitCount fb lo (hi + 1 - lo) + frameBit fb p) % 2 == 0

/-- Weights of the minute and year fields (44_frame_decode.md R180). -/
def weights8 : List Nat := [1, 2, 4, 8, 10, 20, 40, 80]
/-- Weights of the hour field (44_frame_decode.md R180). -/
def weights7 : List Nat := [1, 2, 4, 8, 10, 20, 40]
/-- Weights of the day field (44_frame_decode.md R180). -/
def weights6 : List Nat := [1, 2, 4, 8, 10, 20]
/-- Weights of the weekday field (44_frame_decode.md R180). -/
def weights3 : List Nat := [1, 2, 4]
/-- Weights of the month field (44_frame_decode.md R180). -/
def weights5 : List Nat := [1, 2, 4, 8, 10]

/-- The minute (44_frame_decode.md R185). -/
def minuteOf (fb : FrameVec) : Nat := bcd fb 21 weights8
/-- The hour (44_frame_decode.md R187); its weight-1 bit is the minute's parity bit (R181). -/
def hourOf (fb : FrameVec) : Nat := bcd fb 29 weights7
/-- The day (44_frame_decode.md R189); its weight-1 bit is the hour's parity bit (R181). -/
def dayOf (fb : FrameVec) : Nat := bcd fb 36 weights6
/-- The weekday (44_frame_decode.md R190). -/
def weekdayOf (fb : FrameVec) : Nat := bcd fb 42 weights3
/-- The month (44_frame_decode.md R191). -/
def monthOf (fb : FrameVec) : Nat := bcd fb 45 weights5
/-- The two-digit year (44_frame_decode.md R191). -/
def yearOf (fb : FrameVec) : Nat := bcd fb 50 weights8

/-- The structural check (44_frame_decode.md R180, R192): bit 0 is 0 and bit 20 is 1. -/
def structureOk (fb : FrameVec) : Bool := !fb.getLsbD 0 && fb.getLsbD 20

/-- The minute parity (44_frame_decode.md R186). -/
def minuteParityOk (fb : FrameVec) : Bool := parityOk fb 21 28 29

/-- The hour parity (44_frame_decode.md R188). -/
def hourParityOk (fb : FrameVec) : Bool := parityOk fb 29 35 36

/-- The record of the frame's six fields (44_frame_decode.md R192), each in its width (10_state.md R33). -/
def recordOf (fb : FrameVec) : Record :=
  { minute := BitVec.ofNat 8 (minuteOf fb)
    hour := BitVec.ofNat 7 (hourOf fb)
    day := BitVec.ofNat 6 (dayOf fb)
    weekday := BitVec.ofNat 3 (weekdayOf fb)
    month := BitVec.ofNat 5 (monthOf fb)
    year := BitVec.ofNat 8 (yearOf fb) }

/-- `decode(FB)` (44_frame_decode.md R192); `none` is REJECT, for FrameStructureInvalid and ParityMismatch alike
(60_exceptions.md R264). -/
def decodeFrame (fb : FrameVec) : Option Record :=
  if structureOk fb && minuteParityOk fb && hourParityOk fb then some (recordOf fb) else none

/-- The decoded list `DF` (44_frame_decode.md R193). -/
def decodeAll (cf : List FrameVec) : List Record := cf.filterMap decodeFrame

/-- The effect of stage 4. -/
def decodeStage (s : State) : State := { s with work := { s.work with decoded := decodeAll s.work.cands } }

/-- DECODE, selected by phase ANALYZE (30_encoding.md R76); not selected, nothing happens (log 20). -/
def execDecode (s : State) : Host.Outcome State Fault Refusal :=
  if s.phase = .analyze then .next (decodeStage s) else .next s

end Sys2Proof.Machine
end

