-- ==== Sys2Proof/Machine/Classify.lean ====
section
/-! DEFINITION. Stage 2, CLASSIFY: the dual-range comparator (42_bit_classify.md). -/

namespace Sys2Proof.Machine

open Sys2Proof

/-- `classify(d)` (42_bit_classify.md R150). -/
def classifyDur (d : Int) : BitClass :=
  if zeroMin ≤ d ∧ d ≤ zeroMax then .zero
  else if oneMin ≤ d ∧ d ≤ oneMax then .one
  else .invalid

/-- The class of each pulse, by its duration alone (42_bit_classify.md R152). -/
def classifyAll (ps : List Pulse) : List BitClass := ps.map fun p => classifyDur p.dur

/-- The effect of stage 2. -/
def classifyStage (s : State) : State := { s with work := { s.work with classes := classifyAll s.work.pulses } }

/-- CLASSIFY, selected by phase ANALYZE (30_encoding.md R76); not selected, nothing happens (log 20). -/
def execClassify (s : State) : Host.Outcome State Fault Refusal :=
  if s.phase = .analyze then .next (classifyStage s) else .next s

end Sys2Proof.Machine
end

