-- ==== Sys2Proof/Machine/Sync.lean ====
section
/-! DEFINITION. Stage 3, SYNC: the gap-duration detector and the 59-pulse window (43_frame_sync.md). -/

namespace Sys2Proof.Machine

open Sys2Proof

/-- Differences of consecutive timestamps (43_frame_sync.md R160, 45_signal_classify.md R218). -/
def gaps (w : Nat) : List Ts → List Int
  | a :: b :: rest => wrapdiff w b a :: gaps w (b :: rest)
  | _ => []

/-- The pulse-start gaps `g` (43_frame_sync.md R160). -/
def pulseGaps (w : Nat) (ps : List Pulse) : List Int := gaps w (ps.map fun p => p.start)

/-- The number whose bit `k` is 1 exactly when class `k` is One (30_encoding.md R77, R78). -/
def classBits : List BitClass → Nat
  | [] => 0
  | c :: cs => (if c = .one then 1 else 0) + 2 * classBits cs

/-- `frameVector(b)` (30_encoding.md R78, 43_frame_sync.md R164). -/
def frameVector (b : List BitClass) : FrameVec := BitVec.ofNat 59 (classBits b)

/-- The candidate of marker `i`, if `i` is a marker (43_frame_sync.md R161), the 59 pulses after it exist (R162), and none of
their classes is Invalid (R164). -/
def candidateAt (w : Nat) (ps : List Pulse) (cs : List BitClass) (i : Nat) : Option FrameVec :=
  match ps[i]?, ps[i + 1]? with
  | some p, some q =>
    if gapMark ≤ wrapdiff w q.start p.start ∧ i + frameLen + 1 ≤ ps.length then
      let b := (cs.drop (i + 1)).take frameLen
      if .invalid ∈ b then none else some (frameVector b)
    else none
  | _, _ => none

/-- The candidates of the pulses `ps` with classes `cs`, in marker order (43_frame_sync.md R165). -/
def syncWith (w : Nat) (ps : List Pulse) (cs : List BitClass) : List FrameVec :=
  (List.range (ps.length - 1)).filterMap (candidateAt w ps cs)

/-- `sync(PL)` (43_frame_sync.md R165): the candidate list `CF`. -/
def syncPulses (w : Nat) (ps : List Pulse) : List FrameVec := syncWith w ps (classifyAll ps)

/-- The effect of stage 3, over the classes of stage 2 (43_frame_sync.md R163). -/
def syncStage (s : State) : State :=
  { s with work := { s.work with cands := syncWith s.cfg.width s.work.pulses s.work.classes } }

/-- SYNC, selected by phase ANALYZE (30_encoding.md R76); not selected, nothing happens (log 20). -/
def execSync (s : State) : Host.Outcome State Fault Refusal :=
  if s.phase = .analyze then .next (syncStage s) else .next s

end Sys2Proof.Machine
end

