-- ==== Sys2Proof/Machine/SignalClassify.lean ====
section
/-! DEFINITION. Stages 5 to 7, STATS, VERDICT and COMMIT, and the ANALYZE operation (45_signal_classify.md). -/

namespace Sys2Proof.Machine

open Sys2Proof

/-! ## Statistics -/

/-- `span` (45_signal_classify.md R213): last edge minus first edge of the snapshot, whatever their levels. -/
def spanOf (w : Nat) (es : List Edge) : Int :=
  match es.head?, es.getLast? with
  | some a, some b => wrapdiff w b.ts a.ts
  | _, _ => 0

/-- How many gaps lie in `[SEC_MIN, SEC_MAX]` (45_signal_classify.md R219). -/
def secLikeOf (g : List Int) : Nat := g.countP fun x => decide (secMin ≤ x ∧ x ≤ secMax)

/-- How many gaps are at least `GAP_MARK` (45_signal_classify.md R220). -/
def markerLikeOf (g : List Int) : Nat := g.countP fun x => decide (gapMark ≤ x)

/-- The gaps `marker_like` counts (45_signal_classify.md R220), by the parameter `MARKER_GAPS`. -/
def markerGapsOf (c : Config) (rising : List Ts) (ps : List Pulse) : List Int :=
  match c.markerGaps with
  | .rising => gaps c.width rising
  | .pulseStart => pulseGaps c.width ps

/-- The statistics of a window (45_signal_classify.md R212 to R221), from scratch (R210). -/
def windowStats (c : Config) (es : List Edge) (ps : List Pulse) (cs : List BitClass) (rising : List Ts) (df : List Record) :
    Stats :=
  { pulseCount := ps.length
    span := spanOf c.width es
    short := cs.count .zero
    long := cs.count .one
    other := ps.length - cs.count .zero - cs.count .one
    durSum := (ps.map fun p => p.dur).sum
    secLike := secLikeOf (gaps c.width rising)
    markerLike := markerLikeOf (markerGapsOf c rising ps)
    frames := df.length }

/-- The effect of stage 5. -/
def statsStage (s : State) : State :=
  { s with work := { s.work with
      stats := windowStats s.cfg (snapshot s) s.work.pulses s.work.classes s.work.rising s.work.decoded } }

/-- STATS, selected by phase ANALYZE (30_encoding.md R76); not selected, nothing happens (log 20). -/
def execStats (s : State) : Host.Outcome State Fault Refusal :=
  if s.phase = .analyze then .next (statsStage s) else .next s

/-! ## Verdict -/

/-- The verdict function `V` of 45_signal_classify.md R224, over two independent ratios. -/
def verdictV (sec mark : Nat) (slr otr : Rat) (nfr : Nat) : Verdict :=
  if sigSecMin ≤ sec ∧ sigMarkMin ≤ mark ∧ sigSlRatio ≤ slr ∧ otr ≤ sigOtherRatio ∧ 1 ≤ nfr then .likelySignal
  else if sec < noiseSecLim ∧ slr < noiseSlRatio ∧ noiseOtherRatio < otr then .likelyNoise
  else .uncertain

/-- The block's verdict, by cross-multiplication (45_signal_classify.md R226). -/
def verdictOf (st : Stats) : Verdict :=
  if sigSecMin ≤ st.secLike ∧ sigMarkMin ≤ st.markerLike ∧ 6 * st.pulseCount ≤ 10 * (st.short + st.long)
      ∧ 10 * st.other ≤ 3 * st.pulseCount ∧ 1 ≤ st.frames then .likelySignal
  else if st.secLike < noiseSecLim ∧ 10 * (st.short + st.long) < 5 * st.pulseCount ∧ 5 * st.pulseCount < 10 * st.other then
    .likelyNoise
  else .uncertain

/-- The effect of stage 6. -/
def verdictStage (s : State) : State := { s with work := { s.work with verdict := verdictOf s.work.stats } }

/-- VERDICT, selected by phase ANALYZE (30_encoding.md R76); not selected, nothing happens (log 20). -/
def execVerdict (s : State) : Host.Outcome State Fault Refusal :=
  if s.phase = .analyze then .next (verdictStage s) else .next s

/-! ## Commit -/

/-- Sample slot `k`: record `k` of `DF`, or the all-zero record (45_signal_classify.md R227, R230). -/
def sampleOf (df : List Record) (k : Nat) : Record :=
  match df[k]? with
  | some r => r
  | none => Record.zero

/-- The result registers of a full result (45_signal_classify.md R230), each value in its register's width (10_state.md R33). -/
def fullResults (snapLen : BitVec 17) (st : Stats) (v : Verdict) (df : List Record) : Results :=
  { result := .ok
    verdict := v
    snapLen := snapLen
    span := BitVec.ofInt 32 st.span
    pulseCount := BitVec.ofNat 16 st.pulseCount
    short := BitVec.ofNat 16 st.short
    long := BitVec.ofNat 16 st.long
    other := BitVec.ofNat 16 st.other
    durSum := BitVec.ofInt 64 st.durSum
    secLike := BitVec.ofNat 17 st.secLike
    markerLike := BitVec.ofNat 17 st.markerLike
    frames := BitVec.ofNat 16 st.frames
    nsamples := BitVec.ofNat 2 (min df.length maxSamples)
    sample0 := sampleOf df 0
    sample1 := sampleOf df 1
    sample2 := sampleOf df 2 }

/-- The effect of stage 7: every result register at once, and phase IDLE. The values the stages handed over are gone with the
step that made them (log 10). -/
def commitStage (s : State) : State :=
  { s with
    res := fullResults s.snapLen s.work.stats s.work.verdict s.work.decoded
    phase := .idle
    work := Work.empty }

/-- COMMIT, selected by phase ANALYZE (30_encoding.md R76); not selected, nothing happens (log 20). -/
def execCommit (s : State) : Host.Outcome State Fault Refusal :=
  if s.phase = .analyze then .next (commitStage s) else .next s

/-! ## ANALYZE -/

/-- The whole operation (45_signal_classify.md R230): InsufficientEdges before stage 1 (41_pulse_extract.md R132),
NoClosedPulses after it (R136), else stages 2 to 7 in order (30_encoding.md R76). -/
def analyzeWindow (s : State) : State :=
  if s.snapLen.toNat < minEdges then raiseSkip .insufficientEdges s
  else if (extractStage s).work.pulses = [] then raiseSkip .noClosedPulses s
  else commitStage (verdictStage (statsStage (decodeStage (syncStage (classifyStage (extractStage s))))))

/-- ANALYZE, selected by phase ANALYZE (30_encoding.md R75); in any other phase it is not selected and nothing happens
(log 20). -/
def execAnalyze (s : State) : Host.Outcome State Fault Refusal :=
  if s.phase = .analyze then .next (analyzeWindow s) else .next s

end Sys2Proof.Machine
end

