-- ==== Sys2Proof/Machine/Dispatch.lean ====
section
/-! DEFINITION. One arm per operation of the opcode table. -/

namespace Sys2Proof.Machine

open Sys2Proof

def exec (i : Instr) (s : State) : Host.Outcome State Fault Refusal :=
  match i with
  | .reset => Sys2Proof.Machine.execReset s
  | .edge ts lvl capEn => Sys2Proof.Machine.execEdge ts lvl capEn s
  | .start => Sys2Proof.Machine.execStart s
  | .read addr capEn => Sys2Proof.Machine.execRead addr capEn s
  | .nop => Sys2Proof.Machine.execNop s
  | .snapClose => Sys2Proof.Machine.execSnapClose s
  | .analyze => Sys2Proof.Machine.execAnalyze s
  | .extract => Sys2Proof.Machine.execExtract s
  | .classify => Sys2Proof.Machine.execClassify s
  | .sync => Sys2Proof.Machine.execSync s
  | .decode => Sys2Proof.Machine.execDecode s
  | .stats => Sys2Proof.Machine.execStats s
  | .verdict => Sys2Proof.Machine.execVerdict s
  | .commit => Sys2Proof.Machine.execCommit s

end Sys2Proof.Machine
end

