-- ==== Sys2Proof/Machine/Step.lean ====
section
/-! DEFINITION. One step is one clock cycle (00_scope.md R15): the operations of the cycle run one after another. -/

namespace Sys2Proof.Machine

open Sys2Proof

/-- Run operations one after another, stopping at the first fault or refusal. -/
def runOps : List Instr → State → Host.Outcome State Fault Refusal
  | [], s => .next s
  | i :: is, s =>
    match exec i s with
    | .next t => runOps is t
    | .fault r => .fault r
    | .refused r => .refused r

/-- One cycle (40_capture.md R100). -/
def step (s : State) : Host.Outcome State Fault Refusal :=
  if cycleFaults s then .fault .reservedPhase else runOps (cycleOps s) (beginCycle s)

/-- The state with the operation's bits where the next step takes its operation from (log 9). -/
def State.withFetchWord (s : State) (nbits w : Nat) : State := placeTableWord s nbits w

end Sys2Proof.Machine
end

