-- ==== Sys2Proof/Machine/Report.lean ====
section
/-! DEFINITION. How the host reads values off the registers (30_encoding.md R81), and the report the registers carry
(10_state.md R38, 46_host_access.md R242). The divisions are the host's (45_signal_classify.md R223), so no step uses this file. -/

namespace Sys2Proof.Machine

open Sys2Proof

/-- The decoded record the host assembles from a FRAMEk pair (30_encoding.md R81). -/
def assembleRecord (a b : RegWord) : Record :=
  { minute := a.extractLsb' 0 8
    hour := a.extractLsb' 8 7
    day := a.extractLsb' 16 6
    weekday := a.extractLsb' 24 3
    month := b.extractLsb' 0 5
    year := b.extractLsb' 8 8 }

/-- `dur_sum = DUR_SUM_HI * 2^32 + DUR_SUM_LO` (30_encoding.md R81). -/
def assembleDurSum (lo hi : RegWord) : Nat := hi.toNat * 2 ^ 32 + lo.toNat

/-- A quotient of the host, with no value where the divisor is 0 (log 17). -/
def hostRatio (n d : Int) : Option Rat := if d = 0 then none else some ((n : Rat) / (d : Rat))

/-- The content of the report line (10_state.md R38). -/
structure Report where
  /-- in microseconds -/
  duration : Int
  pulseCount : Nat
  /-- per second; undefined where the span is not positive (45_signal_classify.md R223, log 17) -/
  rate : Option Rat
  short : Nat
  long : Nat
  other : Nat
  /-- in microseconds -/
  avgDuration : Option Rat
  secLike : Nat
  markerLike : Nat
  shortlongRatio : Option Rat
  otherRatio : Option Rat
  /-- the VERDICT field of STATUS -/
  verdict : BitVec 2
  frames : List Record
  deriving DecidableEq, Repr

/-- The report the host makes of the 64 register words (10_state.md R38, 30_encoding.md R81). -/
def hostReport (reg : RegAddr → RegWord) : Report :=
  let n := (reg 0x05).toNat
  let sh := (reg 0x06).toNat
  let lg := (reg 0x07).toNat
  let ot := (reg 0x08).toNat
  let span := (reg 0x04).toInt
  { duration := span
    pulseCount := n
    rate := if span < 0 then none else hostRatio (n * 1000000) span
    short := sh
    long := lg
    other := ot
    avgDuration := hostRatio (assembleDurSum (reg 0x09) (reg 0x0A)) n
    secLike := (reg 0x0B).toNat
    markerLike := (reg 0x0C).toNat
    shortlongRatio := hostRatio (sh + lg) n
    otherRatio := hostRatio ot n
    verdict := (reg 0x00).extractLsb' 4 2
    frames := [assembleRecord (reg 0x0E) (reg 0x0F), assembleRecord (reg 0x10) (reg 0x11),
      assembleRecord (reg 0x12) (reg 0x13)].take ((reg 0x00).extractLsb' 6 2).toNat }

end Sys2Proof.Machine
end

