-- ==== Sys2Proof/Machine/Stimulus.lean ====
section
/-! DEFINITION. The stimulus scripts of 30_encoding.md R85 and R86: what a host writes down, the cycles it drives for each line, and
the run of a script, whose waits end on what the host reads (log 16). -/

namespace Sys2Proof.Machine

open Sys2Proof

/-- One statement of a script line (30_encoding.md R85). -/
inductive Stmt where
  | reset
  | edge (ts : Ts) (lvl : Bool)
  | start
  | read (addr : RegAddr)
  | nop
  deriving DecidableEq, Repr

/-- One entry of a script (30_encoding.md R85, R86). -/
inductive ScriptLine where
  /-- statements joined by `|`, one cycle -/
  | cycle (stmts : List Stmt)
  /-- `CAPEN v`: the level from the next line on; no cycle of its own -/
  | capen (v : Bool)
  /-- `PULSE t, w` -/
  | pulse (t w : Ts)
  /-- `IDLE n` -/
  | idle (n : Nat)
  /-- `WAIT` -/
  | wait
  /-- `RUN` -/
  | run
  deriving DecidableEq, Repr

/-- What the host does next: one cycle, or cycles that repeat until a read of STATUS shows BUSY = 0 (30_encoding.md R86). -/
inductive HostMove where
  | drive (b : Bundle)
  | poll (b : Bundle)
  deriving DecidableEq, Repr

/-- A statement sets its own control bit and fields of the cycle's bundle (30_encoding.md R85). -/
def Stmt.apply (b : Bundle) : Stmt → Bundle
  | .reset => { b with rst := true }
  | .edge ts lvl => { b with edgeValid := true, edgeTs := ts, edgeLvl := lvl }
  | .start => { b with start := true }
  | .read a => { b with regRd := true, regAddr := a }
  | .nop => b

/-- The bundle of one line at a level of `cap_en`. -/
def lineBundle (en : Bool) (stmts : List Stmt) : Bundle := stmts.foldl Stmt.apply { Bundle.idle with capEn := en }

/-- `READ STATUS` (30_encoding.md R86; register 0x00 of 10_state.md R36). -/
def readStatus (en : Bool) : Bundle := lineBundle en [.read 0x00]

/-- The moves of a line at a level of `cap_en`, for `W = w` (30_encoding.md R85, R86). -/
def ScriptLine.moves (w : Nat) (en : Bool) : ScriptLine → List HostMove
  | .cycle stmts => [.drive (lineBundle en stmts)]
  | .capen _ => []
  | .pulse t d =>
    [.drive (lineBundle en [.edge t false]),
      .drive (lineBundle en [.edge (BitVec.ofNat 32 ((t.toNat + d.toNat) % 2 ^ w)) true])]
  | .idle n => List.replicate n (.drive (lineBundle en [.nop]))
  | .wait => [.poll (readStatus en)]
  | .run => [.drive (lineBundle en [.start]), .poll (readStatus en)]

/-- The level of `cap_en` after a line (30_encoding.md R85). -/
def ScriptLine.level (en : Bool) : ScriptLine → Bool
  | .capen v => v
  | .cycle _ | .pulse _ _ | .idle _ | .wait | .run => en

/-- The moves of a script, in cycle order, from a level of `cap_en` on (30_encoding.md R85). -/
def assemble (w : Nat) : Bool → List ScriptLine → List HostMove
  | _, [] => []
  | en, l :: ls => l.moves w en ++ assemble w (l.level en) ls

/-- The last read showed BUSY = 1 (10_state.md R36). -/
def sawBusy (t : State) : Bool := t.out.regRdata.getLsbD 0

/-- The state after the host's moves, if they are over within the given number of cycles and no cycle stops. A `drive` is one cycle.
A `poll` is over with the first cycle whose read shows BUSY = 0 (30_encoding.md R86). -/
def runHost : Nat → List HostMove → State → Option State
  | _, [], s => some s
  | 0, _ :: _, _ => none
  | k + 1, .drive b :: rest, s =>
    match step (placeBundle s b) with
    | .next t => runHost k rest t
    | .fault _ => none
    | .refused _ => none
  | k + 1, .poll b :: rest, s =>
    match step (placeBundle s b) with
    | .next t => if sawBusy t then runHost k (.poll b :: rest) t else runHost k rest t
    | .fault _ => none
    | .refused _ => none

/-- The state after a script, from a level of `cap_en` on (30_encoding.md R85). -/
def runScript (cycles : Nat) (en : Bool) (ls : List ScriptLine) (s : State) : Option State :=
  runHost cycles (assemble s.cfg.width en ls) s

end Sys2Proof.Machine
end

