-- ==== Sys2Proof/Safety.lean ====
section
/-! DEFINITION. The terms claims are stated in: the invariants of the state at a cycle boundary (10_state.md R25, R26, R33), runs
of cycles, and the result of a window as one function of the snapshot (45_signal_classify.md R230). -/

namespace Sys2Proof.Machine

open Sys2Proof

/-! ## Invariants at a cycle boundary -/

/-- Consecutive edges are at least `T_DEB` apart (10_state.md R26). -/
abbrev Spaced (w : Nat) (es : List Edge) : Prop := ∀ d ∈ gaps w (es.map fun e => e.ts), tDeb ≤ d

/-- The capture state (10_state.md R21 to R26). -/
structure CaptureInv (s : State) : Prop where
  /-- 00_scope.md R8 -/
  legal : s.cfg.Legal
  /-- the RAM's canonical form -/
  memWf : s.capMem.wf
  /-- every slot is one of the `C`, and its timestamp has `W` bits (10_state.md R21) -/
  slots : ∀ c ∈ s.capMem, c.1 < s.cfg.cap ∧ Ts.fits s.cfg.width c.2.ts
  /-- 10_state.md R22 -/
  wptrLt : s.wptr.toNat < s.cfg.cap
  /-- 10_state.md R23, R25 -/
  countLe : s.count.toNat ≤ s.cfg.cap
  /-- until the ring is full, no slot has been overwritten (40_capture.md R111) -/
  wptrEq : s.count.toNat < s.cfg.cap → s.wptr.toNat = s.count.toNat
  /-- no valid slot is unwritten (10_state.md R21) -/
  written : ∀ j < s.count.toNat, (s.capMem.read (ringSlot s j)).isSome = true
  /-- 10_state.md R24 -/
  valid : s.lastValid = true ↔ 0 < s.count.toNat
  /-- `last_ts` is the timestamp of the newest recorded edge (10_state.md R24) -/
  newest : s.lastValid = true → (captured s).getLast?.map (fun e => e.ts) = some s.lastTs
  /-- 10_state.md R26 -/
  spaced : Spaced s.cfg.width (captured s)

/-- The snapshot (10_state.md R31). -/
structure SnapInv (s : State) : Prop where
  /-- the RAM's canonical form -/
  memWf : s.snapMem.wf
  /-- every slot is one of the `C`, and its timestamp has `W` bits -/
  slots : ∀ c ∈ s.snapMem, c.1 < s.cfg.cap ∧ Ts.fits s.cfg.width c.2.ts
  /-- the snapshot is no longer than the buffer -/
  lenLe : s.snapLen.toNat ≤ s.cfg.cap
  /-- no slot below `snap_len` is unwritten -/
  written : ∀ j < s.snapLen.toNat, (s.snapMem.read j).isSome = true
  /-- the copied edges are as far apart as when they were recorded (41_pulse_extract.md R134) -/
  spaced : Spaced s.cfg.width (snapshot s)

/-- The result registers (10_state.md R33, 45_signal_classify.md R230, R231). -/
structure ResultInv (c : Config) (r : Results) : Prop where
  /-- `0 .. C` -/
  lenLe : r.snapLen.toNat ≤ c.cap
  /-- without a full result every other register is 0 -/
  skipped : r.result ≠ .ok → r = { Results.zero with result := r.result, snapLen := r.snapLen }
  /-- before the first commit the length is 0 too -/
  fresh : r.result = .none → r.snapLen = 0
  /-- 60_exceptions.md R262 -/
  few : r.result = .insufficientEdges → r.snapLen.toNat < minEdges
  /-- 60_exceptions.md R263, 41_pulse_extract.md R132 -/
  enough : r.result = .ok ∨ r.result = .noClosedPulses → minEdges ≤ r.snapLen.toNat
  /-- a full result has a pulse and a verdict (41_pulse_extract.md R139, 45_signal_classify.md R226) -/
  full : r.result = .ok → 1 ≤ r.pulseCount.toNat ∧ r.verdict ≠ .none
  /-- 41_pulse_extract.md R137 -/
  pulses : 2 * r.pulseCount.toNat ≤ r.snapLen.toNat - 1
  /-- 45_signal_classify.md R216 -/
  classes : r.short.toNat + r.long.toNat + r.other.toNat = r.pulseCount.toNat
  /-- 10_state.md R33: `0 .. 2^46` -/
  durSum : r.durSum.toNat ≤ 2 ^ 46
  /-- 10_state.md R33: `0 .. 65535`, fewer gaps than edges -/
  secLike : r.secLike.toNat ≤ r.snapLen.toNat - 1
  /-- 10_state.md R33: `0 .. 65535` -/
  markerLike : r.markerLike.toNat ≤ r.snapLen.toNat - 1
  /-- at most one frame a pulse -/
  frames : r.frames.toNat ≤ r.pulseCount.toNat
  /-- 45_signal_classify.md R227 -/
  nsamples : r.nsamples.toNat = min r.frames.toNat maxSamples
  /-- sample slots past the decoded frames hold the all-zero record (45_signal_classify.md R230) -/
  sample0 : r.nsamples.toNat ≤ 0 → r.sample0 = Record.zero
  sample1 : r.nsamples.toNat ≤ 1 → r.sample1 = Record.zero
  sample2 : r.nsamples.toNat ≤ 2 → r.sample2 = Record.zero

/-- What holds between cycles and not inside ANALYZE: the phase is no reserved value (10_state.md R30, 30_encoding.md R83), and
no stage's values are left (30_encoding.md R76, log 10). -/
structure BoundaryInv (s : State) : Prop where
  phase : s.phase ≠ .reserved
  work : s.work = Work.empty

/-- All the invariants. -/
structure SafeState (s : State) : Prop where
  capture : CaptureInv s
  snap : SnapInv s
  result : ResultInv s.cfg s.res
  boundary : BoundaryInv s

/-! ## Runs -/

/-- The state after `k` cycles, if no cycle stops. -/
def runCycles : Nat → State → Option State
  | 0, s => some s
  | k + 1, s =>
    match step s with
    | .next t => runCycles k t
    | .fault _ => none
    | .refused _ => none

/-- A run is over at a cycle boundary where `phase = IDLE` and the host has no further input (00_scope.md R17). -/
abbrev RunOver (s : State) : Prop := s.phase = .idle ∧ s.stim = []

/-- Push recorded edges one after another (40_capture.md R104, R115). -/
def pushAll (s : State) (es : List Edge) : State := es.foldl append s

/-! ## A window's result -/

/-- The result registers ANALYZE commits for a snapshot, as the pseudocode of 45_signal_classify.md R230 has it: a function of the
parameters and the snapshot alone. -/
def windowResults (c : Config) (es : List Edge) : Results :=
  let len := BitVec.ofNat 17 es.length
  let ps := extractPulses c.width es
  let df := decodeAll (syncPulses c.width ps)
  let st := windowStats c es ps (classifyAll ps) (risingEdges c es) df
  if es.length < minEdges then { Results.zero with result := .insufficientEdges, snapLen := len }
  else if ps = [] then { Results.zero with result := .noClosedPulses, snapLen := len }
  else fullResults len st (verdictOf st) df

/-! ## Edges by index -/

/-- The level of edge `i` of a snapshot, if there is such an edge. -/
def levelAt (es : List Edge) (i : Nat) : Option Bool := es[i]?.map fun e => e.lvl

/-- The timestamp of edge `i` of a snapshot, if there is such an edge. -/
def tsOf (es : List Edge) (i : Nat) : Option Ts := es[i]?.map fun e => e.ts

/-- Edge `o` falls, edge `c` is the next that rises: the pair opens and closes one low pulse (41_pulse_extract.md R133). Every edge
between them is low, so that a `0,0` pair changes nothing. -/
abbrev ClosedLow (es : List Edge) (o c : Nat) : Prop :=
  1 ≤ o ∧ o < c ∧ levelAt es (o - 1) = some true ∧ (∀ k, k < c → o ≤ k → levelAt es k = some false)
    ∧ levelAt es c = some true

/-- Pulse `i` of the list is followed by a marker gap and by a window of 59 pulses, none of them Invalid (43_frame_sync.md R161,
R162, R164). -/
abbrev ValidWindowAfter (w : Nat) (ps : List Pulse) (i : Nat) : Prop :=
  i + 59 ≤ ps.length - 1
  ∧ (∃ p q, ps[i]? = some p ∧ ps[i + 1]? = some q ∧ 1200000 ≤ wrapdiff w q.start p.start)
  ∧ ∀ k, k < 59 → ∃ x, ps[i + 1 + k]? = some x ∧ classifyDur x.dur ≠ .invalid

/-! ## Synthetic edges -/

/-- The timestamp of a true time on the unwrapped microsecond line (41_pulse_extract.md R131). -/
def tsAt (w : Nat) (t : Int) : Ts := BitVec.ofNat 32 (t % 2 ^ w).toNat

/-- The edges after a high edge at true time `t`, for alternating high and low durations (41_pulse_extract.md R138): each pair is
the high time before a pulse and the pulse's width. -/
def alternating (w : Nat) : Int → List (Nat × Nat) → List Edge
  | _, [] => []
  | t, (h, d) :: rest =>
    { ts := tsAt w (t + h), lvl := false } :: { ts := tsAt w (t + h + d), lvl := true } :: alternating w (t + h + d) rest

/-- The frame with bit `k` flipped (44_frame_decode.md R195). -/
def flipBit (fb : FrameVec) (k : Nat) : FrameVec := fb ^^^ BitVec.twoPow 59 k

end Sys2Proof.Machine
end

