-- ==== Sys2Proof/Certificates/Slice0/Obligations.lean ====
section
/-! DEFINITION. The statements for the provers, from the numbered rules of spec/. -/

open Sys2Proof Sys2Proof.Machine

/-! ## Encoding -/

/-- Decoding an encoded operation gives it back, every operand at every value (30_encoding.md R74 to R76; the packing into bytes is
the model's own, logs 7 and 8). -/
def Obligations.DecodeInvertsEncode : Prop :=
  ∀ i : Instr, decode (encode i).1 (encode i).2 = .ok [i]

/-- The operations of a bundle are exactly those of 30_encoding.md R74's table, and every control vector selects some. -/
def Obligations.ControlVectorSelectsOperations : Prop :=
  ∀ b : Bundle,
    (∀ i : Instr, i ∈ b.ops ↔
      (i = .reset ∧ b.ctl &&& 0b1000 = 0b1000)
      ∨ (i = .edge b.edgeTs b.edgeLvl b.capEn ∧ b.ctl &&& 0b1001 = 0b0001)
      ∨ (i = .start ∧ b.ctl &&& 0b1010 = 0b0010)
      ∨ (i = .read b.regAddr b.capEn ∧ b.ctl &&& 0b1100 = 0b0100)
      ∨ (i = .nop ∧ b.ctl = 0b0000))
    ∧ b.ops ≠ []
    ∧ (b.ctl.getLsbD 3 = true → b.ops = [.reset])

/-- The table's own words (spec/opcode_table.json) and the words of two bundles decode to their operations. -/
def Obligations.TableWordsDecode : Prop :=
  decodeTableWord 8 0b1000 = some .reset
  ∧ decodeTableWord 8 0b0001 = some (.edge 0 false false)
  ∧ decodeTableWord 8 0b0010 = some .start
  ∧ decodeTableWord 8 0b0100 = some (.read 0 false)
  ∧ decodeTableWord 8 0b0000 = some .nop
  ∧ decodeTableWord 2 0b01 = some .snapClose
  ∧ decodeTableWord 2 0b10 = some .analyze
  ∧ decode .ctl [0x11, 0x80, 0x3E, 0x00, 0x00, 0x00] = .ok [.edge 1000 false true]
  ∧ decode .ctl [0xD4, 0x00, 0x00, 0x00, 0x00, 0x00] = .ok [.read 0x03 true]
  ∧ decode .stage [0b00110] = .ok [.extract]
  ∧ decode .stage [0b11110] = .ok [.commit]
  ∧ decode .phase [0b11] = .error .reservedPhase

/-- The edge word (30_encoding.md R72): its value, and that the edge is read back from it. -/
def Obligations.EdgeWordLayout : Prop :=
  ∀ (w : Nat) (e : Edge),
    e.word.toNat = 2 * e.ts.toNat + e.lvl.toNat
    ∧ (Ts.fits w e.ts → Edge.ofWord w e.word = e)

/-! ## A step -/

/-- A step runs the operations of the coming cycle: those the bundle selects, in the order of 40_capture.md R100, and then the
internal operation of the phase at the start of the cycle if its draw says so. Before them the cycle takes one bundle and one pair
of draws, `busy` shows the start of the cycle, and `reg_rdata` is 0 (30_encoding.md R71). -/
def Obligations.StepRunsTheDecodedOperations : Prop :=
  ∀ (s : State) (b : Bundle) (rest : List Bundle), s.stim = b :: rest →
    (b.rst = true → step s = runOps [.reset] (beginCycle s))
    ∧ (b.rst = false → s.phase = .idle → step s = runOps b.ops (beginCycle s))
    ∧ (b.rst = false → s.phase = .snap →
        step s = runOps (b.ops ++ if (nextDraw s).close then [.snapClose] else []) (beginCycle s))
    ∧ (b.rst = false → s.phase = .analyze →
        step s = runOps (b.ops ++ if (nextDraw s).commit then [.analyze] else []) (beginCycle s))
    ∧ (∀ i, b.ops = [i] → s.phase = .idle → step s = exec i (beginCycle s))
    ∧ beginCycle s = { s with
        stim := rest, draws := s.draws.tail, cycle := s.cycle + 1
        out := { regRdata := 0, busy := decide (s.phase ≠ .idle) } }

/-- 60_exceptions.md R278, 30_encoding.md R82: every operation completes from every state, and a cycle stops only by the model-error
fault of R279 (93_implementation_defined.md U13, log 11): when it starts in the reserved phase and is no reset cycle. An internal
operation or a stage outside its phase is not selected and changes nothing (the model's choice, log 20). -/
def Obligations.NothingStopsTheBlock : Prop :=
  (∀ (i : Instr) (s : State), ∃ t, exec i s = .next t)
  ∧ (∀ s : State, (s.phase ≠ .reserved ∨ (nextBundle s).rst = true) → ∃ t, step s = .next t)
  ∧ (∀ s : State, s.phase = .reserved → (nextBundle s).rst = false → step s = .fault .reservedPhase)
  ∧ (∀ s : State, s.phase ≠ .snap → exec .snapClose s = .next s)
  ∧ (∀ s : State, s.phase ≠ .analyze →
      ∀ i ∈ [Instr.analyze, .extract, .classify, .sync, .decode, .stats, .verdict, .commit], exec i s = .next s)

/-! ## Capture -/

/-- 40_capture.md R101 to R103: the whole of EDGE: dropped while disabled, in the window, or less than 20 ms after the last recorded
edge; else appended at slot `wptr`. -/
def Obligations.EdgeOperation : Prop :=
  ∀ (s : State) (ts : Ts) (lvl capEn : Bool),
    ((capEn = false ∨ s.phase = .snap
        ∨ (s.lastValid = true ∧ wrapdiff s.cfg.width (zextTs s.cfg.width ts) s.lastTs < 20000)) →
      exec (.edge ts lvl capEn) s = .next s)
    ∧ (¬ (capEn = false ∨ s.phase = .snap
        ∨ (s.lastValid = true ∧ wrapdiff s.cfg.width (zextTs s.cfg.width ts) s.lastTs < 20000)) →
      exec (.edge ts lvl capEn) s = .next { s with
        capMem := s.capMem.write s.wptr.toNat { ts := zextTs s.cfg.width ts, lvl := lvl }
        wptr := BitVec.ofNat 16 ((s.wptr.toNat + 1) % s.cfg.cap)
        count := BitVec.ofNat 17 (min (s.count.toNat + 1) s.cfg.cap)
        lastTs := zextTs s.cfg.width ts
        lastValid := true })

/-- The frame of EDGE in all its forms: everything but the capture state, and every slot but `wptr`, is unchanged. -/
def Obligations.EdgeFrame : Prop :=
  ∀ (s t : State) (ts : Ts) (lvl capEn : Bool), exec (.edge ts lvl capEn) s = .next t →
    t = { s with capMem := t.capMem, wptr := t.wptr, count := t.count, lastTs := t.lastTs, lastValid := t.lastValid }
    ∧ (∀ i, i ≠ s.wptr.toNat → capRead t i = capRead s i)
    ∧ (∀ j, snapRead t j = snapRead s j)

/-- 10_state.md R25, 40_capture.md R104: after a recorded edge the ring holds the `C` most recent of the edges it held and the new
one, oldest first. -/
def Obligations.RingKeepsTheMostRecentEdges : Prop :=
  ∀ (s : State) (e : Edge), CaptureInv s →
    captured (append s e) = (captured s ++ [e]).drop ((captured s).length + 1 - s.cfg.cap)

/-- 40_capture.md R115: after any `N` recorded edges from an empty ring, START's snapshot has length `min(N, C)` and lists the most
recent edges in chronological order. -/
def Obligations.SnapshotListsTheMostRecentEdges : Prop :=
  ∀ (s : State) (es : List Edge), CaptureInv s → s.count = 0 →
    snapshot (openSnapshot (pushAll s es)) = es.drop (es.length - s.cfg.cap)
    ∧ (snapshot (openSnapshot (pushAll s es))).length = min es.length s.cfg.cap

/-- 40_capture.md R111, R112, R116: an accepted START copies the ring oldest first, opens the window, and changes nothing else; in
any phase but IDLE it is ignored. -/
def Obligations.StartCopiesTheRing : Prop :=
  ∀ s : State,
    (s.phase ≠ .idle → exec .start s = .next s)
    ∧ (s.phase = .idle → ∃ t, exec .start s = .next t
      ∧ t.phase = .snap
      ∧ t.snapLen = s.count
      ∧ (∀ j, j < s.count.toNat →
          snapRead t j =
            capRead s ((((s.wptr.toNat : Int) - (s.count.toNat : Int) + (j : Int)) % (s.cfg.cap : Int)).toNat))
      ∧ (∀ j, s.count.toNat ≤ j → snapRead t j = snapRead s j)
      ∧ (∀ i, capRead t i = capRead s i)
      ∧ t = { s with snapMem := t.snapMem, snapLen := t.snapLen, phase := t.phase })

/-- 40_capture.md R113: SNAP_CLOSE moves phase SNAP to ANALYZE and changes nothing else. -/
def Obligations.SnapCloseOpensTheAnalysis : Prop :=
  ∀ s : State, s.phase = .snap → exec .snapClose s = .next { s with phase := .analyze }

/-- 70_reset_and_hazards.md R293, 20_memory.md R60: an edge recorded in the cycle of an accepted START is in the snapshot. -/
def Obligations.EdgeInTheStartCycleIsInTheSnapshot : Prop :=
  ∀ (s : State) (b : Bundle) (rest : List Bundle), s.stim = b :: rest → s.phase = .idle → b.rst = false → b.start = true →
    b.edgeValid = true → b.capEn = true → debounced s (zextTs s.cfg.width b.edgeTs) = false →
    ∃ t, step s = .next t
      ∧ t.phase = .snap
      ∧ snapshot t = captured (append s { ts := zextTs s.cfg.width b.edgeTs, lvl := b.edgeLvl })

/-- 40_capture.md R102, 70_reset_and_hazards.md R290: a cycle that starts with the window open leaves the whole capture state as it
is, whatever edge is offered. -/
def Obligations.OpenWindowDropsEdges : Prop :=
  ∀ s t : State, s.phase = .snap → (nextBundle s).rst = false → step s = .next t →
    t.capMem = s.capMem ∧ t.wptr = s.wptr ∧ t.count = s.count ∧ t.lastTs = s.lastTs ∧ t.lastValid = s.lastValid

/-- 10_state.md R24: no rule reads `last_ts` while `last_valid = 0`: whatever it holds, every operation does the same. -/
def Obligations.UnsetLastTimestampIsNeverRead : Prop :=
  ∀ (i : Instr) (s : State) (x : Ts), s.lastValid = false →
    ∃ t t', exec i s = .next t ∧ exec i { s with lastTs := x } = .next t'
      ∧ t' = { t with lastTs := t'.lastTs }
      ∧ (t.lastValid = true → t'.lastTs = t.lastTs)

/-! ## Arithmetic of the analysis -/

/-- 41_pulse_extract.md R130, R131: `wrapdiff` lies in its range, and equals the true time difference exactly when that lies in the
range. -/
def Obligations.WrapdiffIsTheTrueDifferenceInRange : Prop :=
  ∀ (c : Config) (ta tb : Int), c.Legal →
    (-(2 ^ (c.width - 1)) ≤ wrapdiff c.width (tsAt c.width tb) (tsAt c.width ta)
      ∧ wrapdiff c.width (tsAt c.width tb) (tsAt c.width ta) < 2 ^ (c.width - 1))
    ∧ (wrapdiff c.width (tsAt c.width tb) (tsAt c.width ta) = tb - ta
        ↔ -(2 ^ (c.width - 1)) ≤ tb - ta ∧ tb - ta < 2 ^ (c.width - 1))
    ∧ ((2 ^ c.width : Int) ∣ wrapdiff c.width (tsAt c.width tb) (tsAt c.width ta) - (tb - ta))

/-- 41_pulse_extract.md R133, R134, R137: for every snapshot the pulses are exactly its pairs of a falling edge and the next rising
edge with a positive difference, in the order of their closing edges. So starts are in snapshot order, there are at most
`floor((L-1)/2)` pulses, and every duration lies in `[1, 2^(W-1) - 1]`. -/
def Obligations.PulseListBounds : Prop :=
  ∀ (c : Config) (es : List Edge), c.Legal →
    (∃ pairs : List (Nat × Nat),
      (pairs.map fun p => p.2).Pairwise (fun i j => i < j)
      ∧ (∀ o cl, (o, cl) ∈ pairs ↔ ClosedLow es o cl
          ∧ ∃ a b, tsOf es o = some a ∧ tsOf es cl = some b ∧ 0 < wrapdiff c.width b a)
      ∧ List.Forall₂ (fun (p : Nat × Nat) (q : Pulse) =>
          tsOf es p.1 = some q.start ∧ ∃ b, tsOf es p.2 = some b ∧ q.dur = wrapdiff c.width b q.start)
        pairs (extractPulses c.width es))
    ∧ ((extractPulses c.width es).map fun p => p.start).Sublist (es.map fun e => e.ts)
    ∧ (extractPulses c.width es).length ≤ (es.length - 1) / 2
    ∧ ∀ p ∈ extractPulses c.width es, 1 ≤ p.dur ∧ p.dur ≤ 2 ^ (c.width - 1) - 1

/-- 41_pulse_extract.md R138: from edges with known alternating high and low durations that begin high, exactly the constructed low
durations are extracted, across timestamp wraps too; a falling edge left open at the end adds nothing. -/
def Obligations.ExtractionRecoversDurations : Prop :=
  ∀ (c : Config) (t : Int) (hd : List (Nat × Nat)) (last : List Edge), c.Legal →
    (∀ p ∈ hd, 1 ≤ p.2 ∧ p.2 ≤ 2 ^ (c.width - 1) - 1) →
    (last = [] ∨ ∃ ts, last = [{ ts := ts, lvl := false }]) →
    (extractPulses c.width ({ ts := tsAt c.width t, lvl := true } :: alternating c.width t hd ++ last)).map (fun p => p.dur)
      = hd.map fun p => (p.2 : Int)

/-- 42_bit_classify.md R150, R151: the class of a duration, and that the two ranges are disjoint. -/
def Obligations.ClassOfADuration : Prop :=
  ∀ d : Int,
    (classifyDur d = .zero ↔ 60000 ≤ d ∧ d ≤ 140000)
    ∧ (classifyDur d = .one ↔ 160000 ≤ d ∧ d ≤ 260000)
    ∧ (classifyDur d = .invalid ↔ d < 60000 ∨ (140000 < d ∧ d < 160000) ∨ 260000 < d)
    ∧ ¬ ((60000 ≤ d ∧ d ≤ 140000) ∧ (160000 ≤ d ∧ d ≤ 260000))

/-- 43_frame_sync.md R161 to R165: the candidates are, in marker order and one for each, the vectors of the 59 pulses after every
marker whose window exists and holds no Invalid; fewer than 60 pulses give no candidate. -/
def Obligations.CandidatesAreTheValidWindowsAfterMarkers : Prop :=
  ∀ (w : Nat) (ps : List Pulse),
    (∃ markers : List Nat,
      markers.Pairwise (fun i j => i < j)
      ∧ (∀ i, i ∈ markers ↔ ValidWindowAfter w ps i)
      ∧ List.Forall₂ (fun (i : Nat) (fb : FrameVec) =>
          ∀ k, k < 59 → ∃ x, ps[i + 1 + k]? = some x ∧ fb.getLsbD k = decide (classifyDur x.dur = .one))
        markers (syncPulses w ps))
    ∧ (ps.length < 60 → syncPulses w ps = [])

/-- 44_frame_decode.md R192: a frame decodes exactly when bit 0 is 0, bit 20 is 1 and both parity groups are even, and then to the
weighted sums of its six fields. -/
def Obligations.FrameDecodesAllOrNothing : Prop :=
  ∀ fb : FrameVec,
    (decodeFrame fb ≠ none ↔
      fb.getLsbD 0 = false ∧ fb.getLsbD 20 = true
      ∧ (((List.range' 21 9).map (frameBit fb)).sum) % 2 = 0
      ∧ (((List.range' 29 8).map (frameBit fb)).sum) % 2 = 0)
    ∧ ∀ r, decodeFrame fb = some r →
        r.minute.toNat = frameBit fb 21 + 2 * frameBit fb 22 + 4 * frameBit fb 23 + 8 * frameBit fb 24
          + 10 * frameBit fb 25 + 20 * frameBit fb 26 + 40 * frameBit fb 27 + 80 * frameBit fb 28
        ∧ r.hour.toNat = frameBit fb 29 + 2 * frameBit fb 30 + 4 * frameBit fb 31 + 8 * frameBit fb 32
          + 10 * frameBit fb 33 + 20 * frameBit fb 34 + 40 * frameBit fb 35
        ∧ r.day.toNat = frameBit fb 36 + 2 * frameBit fb 37 + 4 * frameBit fb 38 + 8 * frameBit fb 39
          + 10 * frameBit fb 40 + 20 * frameBit fb 41
        ∧ r.weekday.toNat = frameBit fb 42 + 2 * frameBit fb 43 + 4 * frameBit fb 44
        ∧ r.month.toNat = frameBit fb 45 + 2 * frameBit fb 46 + 4 * frameBit fb 47 + 8 * frameBit fb 48
          + 10 * frameBit fb 49
        ∧ r.year.toNat = frameBit fb 50 + 2 * frameBit fb 51 + 4 * frameBit fb 52 + 8 * frameBit fb 53
          + 10 * frameBit fb 54 + 20 * frameBit fb 55 + 40 * frameBit fb 56 + 80 * frameBit fb 57

/-- 44_frame_decode.md R182, R195: what flipping one bit of a frame that decodes does: bits 0, 20 and 21 to 36 reject it, bits 1 to
19 and 58 change nothing, bits 37 to 57 change the record. -/
def Obligations.SingleBitFlips : Prop :=
  ∀ (fb : FrameVec) (r : Record) (k : Nat), decodeFrame fb = some r → k < 59 →
    ((k = 0 ∨ 20 ≤ k ∧ k ≤ 36) → decodeFrame (flipBit fb k) = none)
    ∧ ((1 ≤ k ∧ k ≤ 19 ∨ k = 58) → decodeFrame (flipBit fb k) = some r)
    ∧ (37 ≤ k ∧ k ≤ 57 → ∃ r', decodeFrame (flipBit fb k) = some r' ∧ r' ≠ r)

/-- 44_frame_decode.md R195: every minute value the weights can form is the minute of some frame that decodes, and so is every hour
value. -/
def Obligations.EveryFieldValueDecodes : Prop :=
  ∀ fb : FrameVec,
    (∃ fb' r, decodeFrame fb' = some r ∧ r.minute.toNat = minuteOf fb)
    ∧ (∃ fb' r, decodeFrame fb' = some r ∧ r.hour.toNat = hourOf fb)

/-- 45_signal_classify.md R212 to R221: the statistics of a window, its pulses classified by their durations. -/
def Obligations.WindowStatistics : Prop :=
  ∀ (c : Config) (es : List Edge) (ps : List Pulse) (rising : List Ts) (df : List Record),
    let st := windowStats c es ps (classifyAll ps) rising df
    st.pulseCount = ps.length
    ∧ (∀ a b, es.head? = some a → es.getLast? = some b → st.span = wrapdiff c.width b.ts a.ts)
    ∧ st.short = ps.countP (fun p => decide (60000 ≤ p.dur ∧ p.dur ≤ 140000))
    ∧ st.long = ps.countP (fun p => decide (160000 ≤ p.dur ∧ p.dur ≤ 260000))
    ∧ st.other = ps.countP (fun p => decide (classifyDur p.dur = .invalid))
    ∧ st.short + st.long + st.other = ps.length
    ∧ st.durSum = (ps.map fun p => p.dur).sum
    ∧ st.secLike = (gaps c.width rising).countP (fun x => decide (900000 ≤ x ∧ x ≤ 1100000))
    ∧ (c.markerGaps = .rising → st.markerLike = (gaps c.width rising).countP (fun x => decide (1200000 ≤ x)))
    ∧ (c.markerGaps = .pulseStart → st.markerLike =
        (gaps c.width (ps.map fun p => p.start)).countP (fun x => decide (1200000 ≤ x)))
    ∧ st.frames = df.length

/-- 45_signal_classify.md R226: the block's cross-multiplied verdict is `V` of the exact ratios. -/
def Obligations.VerdictIsTheRationalVerdict : Prop :=
  ∀ st : Stats, 1 ≤ st.pulseCount →
    verdictOf st = verdictV st.secLike st.markerLike (((st.short : Rat) + (st.long : Rat)) / (st.pulseCount : Rat))
      ((st.other : Rat) / (st.pulseCount : Rat)) st.frames

/-- 45_signal_classify.md R224, R225: the three outcomes of `V`, exclusive and together covering every input. -/
def Obligations.VerdictOutcomesAreExclusive : Prop :=
  ∀ (sec mark nfr : Nat) (slr otr : Rat),
    (verdictV sec mark slr otr nfr = .likelySignal ↔
      10 ≤ sec ∧ 1 ≤ mark ∧ 3 / 5 ≤ slr ∧ otr ≤ 3 / 10 ∧ 1 ≤ nfr)
    ∧ (verdictV sec mark slr otr nfr = .likelyNoise ↔ sec < 3 ∧ slr < 1 / 2 ∧ 1 / 2 < otr)
    ∧ verdictV sec mark slr otr nfr ≠ .none

/-- 45_signal_classify.md R232: the boundary statistics give likely-signal, moving any one of them across its boundary gives
uncertain, and a window with `sec_like < 3` and `other_ratio > 1/2` gives likely-noise. -/
def Obligations.VerdictBoundaries : Prop :=
  verdictV 10 1 (3 / 5) (3 / 10) 1 = .likelySignal
  ∧ verdictV 9 1 (3 / 5) (3 / 10) 1 = .uncertain
  ∧ verdictV 10 0 (3 / 5) (3 / 10) 1 = .uncertain
  ∧ (∀ slr : Rat, slr < 3 / 5 → verdictV 10 1 slr (3 / 10) 1 = .uncertain)
  ∧ (∀ otr : Rat, 3 / 10 < otr → verdictV 10 1 (3 / 5) otr 1 = .uncertain)
  ∧ verdictV 10 1 (3 / 5) (3 / 10) 0 = .uncertain
  ∧ (∀ st : Stats, 1 ≤ st.pulseCount → st.short + st.long + st.other = st.pulseCount → st.secLike < 3 →
      1 / 2 < (st.other : Rat) / (st.pulseCount : Rat) → verdictOf st = .likelyNoise)

/-! ## The stages and ANALYZE -/

/-- 41_pulse_extract.md R133, R135, R139: EXTRACT hands over the pulses and rising edges of the snapshot. The first list of rising edges
holds the timestamp of edge `j + 1` for every pair of levels 0 then 1, whether or not a pulse was open or kept; the second that of
every high edge; both in order. (That stages hand values over through a field of the state is the model's, log 10.) -/
def Obligations.ExtractStageEffect : Prop :=
  (∀ s : State, s.phase = .analyze →
    exec .extract s = .next { s with work := { s.work with
      pulses := extractPulses s.cfg.width (snapshot s)
      rising := match s.cfg.risingDef with
        | .transition => risingT (snapshot s)
        | .levelHigh => risingH (snapshot s) } })
  ∧ ∀ es : List Edge,
    risingT es = (List.range (es.length - 1)).filterMap (fun j =>
      if levelAt es j = some false ∧ levelAt es (j + 1) = some true then tsOf es (j + 1) else none)
    ∧ risingH es = (List.range es.length).filterMap (fun j => if levelAt es j = some true then tsOf es j else none)

/-- 42_bit_classify.md R150: CLASSIFY hands over one class per pulse, by its duration alone. -/
def Obligations.ClassifyStageEffect : Prop :=
  ∀ s : State, s.phase = .analyze →
    exec .classify s = .next { s with work := { s.work with classes := s.work.pulses.map fun p => classifyDur p.dur } }

/-- 43_frame_sync.md R165: SYNC hands over the candidates of the pulses, when stage 2 classified them. -/
def Obligations.SyncStageEffect : Prop :=
  ∀ s : State, s.phase = .analyze → s.work.classes = classifyAll s.work.pulses →
    exec .sync s = .next { s with work := { s.work with cands := syncPulses s.cfg.width s.work.pulses } }

/-- 44_frame_decode.md R193: DECODE hands over the records of the candidates that are not rejected, in order. -/
def Obligations.DecodeStageEffect : Prop :=
  ∀ s : State, s.phase = .analyze →
    exec .decode s = .next { s with work := { s.work with decoded := s.work.cands.filterMap decodeFrame } }

/-- 45_signal_classify.md R210, R212 to R221: STATS hands over the statistics, of this snapshot and the stages before. -/
def Obligations.StatsStageEffect : Prop :=
  ∀ s : State, s.phase = .analyze →
    exec .stats s = .next { s with work := { s.work with
      stats := windowStats s.cfg (snapshot s) s.work.pulses s.work.classes s.work.rising s.work.decoded } }

/-- 45_signal_classify.md R226: VERDICT hands over the verdict of the statistics, compared in integers. -/
def Obligations.VerdictStageEffect : Prop :=
  ∀ s : State, s.phase = .analyze →
    exec .verdict s = .next { s with work := { s.work with
      verdict :=
        let st := s.work.stats
        if 10 ≤ st.secLike ∧ 1 ≤ st.markerLike ∧ 6 * st.pulseCount ≤ 10 * (st.short + st.long)
          ∧ 10 * st.other ≤ 3 * st.pulseCount ∧ 1 ≤ st.frames then .likelySignal
        else if st.secLike < 3 ∧ 10 * (st.short + st.long) < 5 * st.pulseCount ∧ 5 * st.pulseCount < 10 * st.other then
          .likelyNoise
        else .uncertain } }

/-- 45_signal_classify.md R227, R230: COMMIT writes every result register at once and returns to IDLE; the samples are the first
three records. (That the handed-over values are gone afterwards is the model's, log 10.) -/
def Obligations.CommitStageEffect : Prop :=
  ∀ s : State, s.phase = .analyze →
    exec .commit s = .next { s with
      phase := .idle
      work := Work.empty
      res :=
        { result := .ok, verdict := s.work.verdict, snapLen := s.snapLen
          span := BitVec.ofInt 32 s.work.stats.span
          pulseCount := BitVec.ofNat 16 s.work.stats.pulseCount
          short := BitVec.ofNat 16 s.work.stats.short
          long := BitVec.ofNat 16 s.work.stats.long
          other := BitVec.ofNat 16 s.work.stats.other
          durSum := BitVec.ofInt 64 s.work.stats.durSum
          secLike := BitVec.ofNat 17 s.work.stats.secLike
          markerLike := BitVec.ofNat 17 s.work.stats.markerLike
          frames := BitVec.ofNat 16 s.work.stats.frames
          nsamples := BitVec.ofNat 2 (min s.work.decoded.length 3)
          sample0 := s.work.decoded[0]?.getD Record.zero
          sample1 := s.work.decoded[1]?.getD Record.zero
          sample2 := s.work.decoded[2]?.getD Record.zero } }

/-- 45_signal_classify.md R230: ANALYZE commits the result of the snapshot and returns to IDLE; every other state is unchanged. -/
def Obligations.AnalyzeCommitsTheWindowResult : Prop :=
  ∀ s : State, s.phase = .analyze →
    exec .analyze s = .next { s with res := windowResults s.cfg (snapshot s), phase := .idle, work := Work.empty }

/-- 60_exceptions.md R262: fewer than 4 edges commit the code 2 and `L`, and every other result register reads 0. -/
def Obligations.FewEdgesCommitASkip : Prop :=
  ∀ s : State, s.phase = .analyze → s.snapLen.toNat < 4 →
    ∃ t, exec .analyze s = .next t ∧ t.phase = .idle
      ∧ t.res = { Results.zero with result := .insufficientEdges, snapLen := s.snapLen }
      ∧ (∀ a en, a ≠ 0x00 → a ≠ 0x01 → a ≠ 0x02 → a ≠ 0x03 → readReg t a en = 0)
      ∧ (readReg t 0x00 false).toNat = 8
      ∧ (readReg t 0x03 false).toNat = s.snapLen.toNat
      ∧ t.capMem = s.capMem ∧ t.wptr = s.wptr ∧ t.count = s.count ∧ t.lastTs = s.lastTs ∧ t.lastValid = s.lastValid

/-- 60_exceptions.md R263, 41_pulse_extract.md R136: at least 4 edges without a pulse commit the code 3 and `L`, and every other
result register reads 0. -/
def Obligations.NoPulsesCommitASkip : Prop :=
  ∀ s : State, s.phase = .analyze → 4 ≤ s.snapLen.toNat → extractPulses s.cfg.width (snapshot s) = [] →
    ∃ t, exec .analyze s = .next t ∧ t.phase = .idle
      ∧ t.res = { Results.zero with result := .noClosedPulses, snapLen := s.snapLen }
      ∧ (∀ a en, a ≠ 0x00 → a ≠ 0x01 → a ≠ 0x02 → a ≠ 0x03 → readReg t a en = 0)
      ∧ (readReg t 0x00 false).toNat = 12
      ∧ (readReg t 0x03 false).toNat = s.snapLen.toNat
      ∧ t.capMem = s.capMem ∧ t.wptr = s.wptr ∧ t.count = s.count ∧ t.lastTs = s.lastTs ∧ t.lastValid = s.lastValid

/-- 20_memory.md R62, 10_state.md R31: the result depends on the parameters and on the slots below `snap_len` alone: two states that
agree on those commit the same result, whatever their capture states and their other slots hold. -/
def Obligations.AnalysisReadsOnlyTheSnapshot : Prop :=
  ∀ s s' t t' : State, s.phase = .analyze → s'.phase = .analyze → s'.cfg = s.cfg → s'.snapLen = s.snapLen →
    (∀ j, j < s.snapLen.toNat → snapRead s' j = snapRead s j) →
    exec .analyze s = .next t → exec .analyze s' = .next t' → t'.res = t.res

/-- 10_state.md R33, 00_scope.md R11: the registers hold the statistics exactly; no width cuts a value off. -/
def Obligations.ResultRegistersHoldExactValues : Prop :=
  ∀ s : State, s.cfg.Legal → SnapInv s → 4 ≤ s.snapLen.toNat → extractPulses s.cfg.width (snapshot s) ≠ [] →
    let ps := extractPulses s.cfg.width (snapshot s)
    let df := decodeAll (syncPulses s.cfg.width ps)
    let st := windowStats s.cfg (snapshot s) ps (classifyAll ps) (risingEdges s.cfg (snapshot s)) df
    let r := windowResults s.cfg (snapshot s)
    r.snapLen.toNat = (snapshot s).length ∧ r.span.toInt = st.span ∧ r.pulseCount.toNat = st.pulseCount
    ∧ r.short.toNat = st.short ∧ r.long.toNat = st.long ∧ r.other.toNat = st.other ∧ (r.durSum.toNat : Int) = st.durSum
    ∧ r.secLike.toNat = st.secLike ∧ r.markerLike.toNat = st.markerLike ∧ r.frames.toNat = st.frames
    ∧ r.nsamples.toNat = min st.frames 3

/-! ## Host access and reset -/

/-- 46_host_access.md R240: READ drives `reg_rdata` from the state at the start of the cycle and changes no state. -/
def Obligations.ReadDrivesTheRegister : Prop :=
  ∀ (s : State) (a : RegAddr) (en : Bool),
    exec (.read a en) s = .next { s with out := { s.out with regRdata := readReg s a en } }

/-- 10_state.md R36: the register map, field by field. -/
def Obligations.RegisterMap : Prop :=
  ∀ (s : State) (en : Bool),
    (readReg s 0x00 en).toNat =
      (decide (s.phase ≠ .idle)).toNat + 2 * (decide (s.phase = .snap)).toNat + 4 * s.res.result.code.toNat
        + 16 * s.res.verdict.code.toNat + 64 * s.res.nsamples.toNat + 256 * en.toNat
    ∧ (readReg s 0x01 en).toNat = s.count.toNat
    ∧ (readReg s 0x02 en).toNat = s.wptr.toNat
    ∧ (readReg s 0x03 en).toNat = s.res.snapLen.toNat
    ∧ (readReg s 0x04 en).toInt = s.res.span.toInt
    ∧ (readReg s 0x05 en).toNat = s.res.pulseCount.toNat
    ∧ (readReg s 0x06 en).toNat = s.res.short.toNat
    ∧ (readReg s 0x07 en).toNat = s.res.long.toNat
    ∧ (readReg s 0x08 en).toNat = s.res.other.toNat
    ∧ (readReg s 0x0A en).toNat * 2 ^ 32 + (readReg s 0x09 en).toNat = s.res.durSum.toNat
    ∧ (readReg s 0x0B en).toNat = s.res.secLike.toNat
    ∧ (readReg s 0x0C en).toNat = s.res.markerLike.toNat
    ∧ (readReg s 0x0D en).toNat = s.res.frames.toNat
    ∧ (∀ (k : Nat) (r : Record), (k = 0 ∧ r = s.res.sample0 ∨ k = 1 ∧ r = s.res.sample1 ∨ k = 2 ∧ r = s.res.sample2) →
        (readReg s (BitVec.ofNat 6 (0x0E + 2 * k)) en).toNat =
          r.minute.toNat + 2 ^ 8 * r.hour.toNat + 2 ^ 16 * r.day.toNat + 2 ^ 24 * r.weekday.toNat
        ∧ (readReg s (BitVec.ofNat 6 (0x0F + 2 * k)) en).toNat = r.month.toNat + 2 ^ 8 * r.year.toNat)
    ∧ (∀ a : RegAddr, 0x14 ≤ a.toNat → readReg s a en = 0)

/-- 10_state.md R38, 30_encoding.md R81: the report the host makes of the registers: counts and the span as committed, the host's
quotients, the verdict code, and as many records as SAMPLES says. That the average, the rate and the two ratios are exact rationals
is the model's choice (log 17): the spec leaves rounding to the host (93_implementation_defined.md U19). -/
def Obligations.ReportOfTheRegisters : Prop :=
  ∀ (s : State) (en : Bool),
    let rep := hostReport fun a => readReg s a en
    rep.duration = s.res.span.toInt ∧ rep.pulseCount = s.res.pulseCount.toNat
    ∧ rep.short = s.res.short.toNat ∧ rep.long = s.res.long.toNat ∧ rep.other = s.res.other.toNat
    ∧ rep.secLike = s.res.secLike.toNat ∧ rep.markerLike = s.res.markerLike.toNat
    ∧ rep.verdict = s.res.verdict.code
    ∧ assembleDurSum (readReg s 0x09 en) (readReg s 0x0A en) = s.res.durSum.toNat
    ∧ rep.frames = [s.res.sample0, s.res.sample1, s.res.sample2].take s.res.nsamples.toNat
    ∧ (s.res.pulseCount ≠ 0 →
        rep.avgDuration = some ((s.res.durSum.toNat : Rat) / (s.res.pulseCount.toNat : Rat))
        ∧ rep.shortlongRatio = some (((s.res.short.toNat : Rat) + (s.res.long.toNat : Rat)) / (s.res.pulseCount.toNat : Rat))
        ∧ rep.otherRatio = some ((s.res.other.toNat : Rat) / (s.res.pulseCount.toNat : Rat)))
    ∧ (0 < s.res.span.toInt →
        rep.rate = some ((s.res.pulseCount.toNat : Rat) * 1000000 / (s.res.span.toInt : Rat)))

/-- 46_host_access.md R246: a NOP changes no state of the block, and `reg_rdata` is 0. -/
def Obligations.NopEffect : Prop :=
  ∀ s : State, exec .nop s = .next { s with out := { s.out with regRdata := 0 } }

/-- 70_reset_and_hazards.md R281: what RESET writes; the RAMs, `last_ts`, the parameters and the environment keep what they
hold. (The scratch values are the model's, log 10.) -/
def Obligations.ResetEffect : Prop :=
  ∀ s : State,
    exec .reset s = .next { s with
      wptr := 0, count := 0, lastValid := false, phase := .idle, snapLen := 0, res := Results.zero
      out := { s.out with regRdata := 0 }, work := Work.empty }

/-- 70_reset_and_hazards.md R281, R282: a cycle with `rst = 1` is a RESET whatever else its bundle holds and whatever the phase, and
abandons an analysis in flight. -/
def Obligations.ResetOverridesTheCycle : Prop :=
  ∀ s : State, (nextBundle s).rst = true →
    ∃ t, step s = .next t
      ∧ t.wptr = 0 ∧ t.count = 0 ∧ t.lastValid = false ∧ t.phase = .idle ∧ t.snapLen = 0 ∧ t.res = Results.zero
      ∧ t.capMem = s.capMem ∧ t.snapMem = s.snapMem ∧ t.lastTs = s.lastTs ∧ t.cfg = s.cfg
      ∧ t.out.regRdata = 0 ∧ t.out.busy = decide (s.phase ≠ .idle)
      ∧ ∀ a en, readReg t a en = if a = 0 ∧ en = true then 0x100 else 0

/-- 70_reset_and_hazards.md R280, R286: the state after reset. -/
def Obligations.ResetStateIsClean : Prop :=
  State.reset.wptr = 0 ∧ State.reset.count = 0 ∧ State.reset.lastValid = false ∧ State.reset.phase = .idle
  ∧ State.reset.snapLen = 0 ∧ State.reset.res = Results.zero
  ∧ ∀ a en, readReg State.reset a en = if a = 0 ∧ en = true then 0x100 else 0

/-- 30_encoding.md R71, 46_host_access.md R241, R247: the outputs of a cycle show the state at its start. -/
def Obligations.OutputsShowTheStartOfTheCycle : Prop :=
  ∀ s t : State, step s = .next t →
    t.out.busy = decide (s.phase ≠ .idle)
    ∧ t.out.regRdata =
        if (nextBundle s).regRd = true ∧ (nextBundle s).rst = false then
          readReg s (nextBundle s).regAddr (nextBundle s).capEn
        else 0

/-- 46_host_access.md R241: a read has no side effect: the same cycle with any other read, or none, gives the same later state but
for `reg_rdata`. -/
def Obligations.ReadsHaveNoSideEffect : Prop :=
  ∀ (s t : State) (b : Bundle) (rest : List Bundle) (rd : Bool) (a : RegAddr), s.stim = b :: rest → step s = .next t →
    ∃ t', step { s with stim := { b with regRd := rd, regAddr := a } :: rest } = .next t' ∧ { t' with out := t.out } = t

/-! ## Whole-machine rules -/

/-- 10_state.md R30: the phase after a cycle, in every case. -/
def Obligations.PhaseOrder : Prop :=
  ∀ s t : State, step s = .next t →
    t.phase =
      if (nextBundle s).rst then .idle
      else match s.phase with
        | .idle => if (nextBundle s).start then .snap else .idle
        | .snap => if (nextDraw s).close then .analyze else .snap
        | .analyze => if (nextDraw s).commit then .idle else .analyze
        | .reserved => .reserved

/-- 46_host_access.md R250, 10_state.md R33: between commits the result registers do not change: only a reset cycle, or a cycle in
which an analysis commits, changes them. -/
def Obligations.ResultsChangeOnlyAtCommitOrReset : Prop :=
  ∀ s t : State, step s = .next t → t.res ≠ s.res →
    (nextBundle s).rst = true ∨ (s.phase = .analyze ∧ (nextDraw s).commit = true)

/-- 60_exceptions.md R272, 20_memory.md R58: no operation but EDGE and RESET writes the capture state, and EDGE writes nothing of the
analysis state or the results. -/
def Obligations.ViewsAreDisjoint : Prop :=
  ∀ (i : Instr) (s t : State), exec i s = .next t → i ≠ .reset →
    ((∀ ts lvl en, i ≠ .edge ts lvl en) →
      t.capMem = s.capMem ∧ t.wptr = s.wptr ∧ t.count = s.count ∧ t.lastTs = s.lastTs ∧ t.lastValid = s.lastValid)
    ∧ ((∃ ts lvl en, i = .edge ts lvl en) →
      t.phase = s.phase ∧ t.snapMem = s.snapMem ∧ t.snapLen = s.snapLen ∧ t.res = s.res)

/-- 20_memory.md R50: EDGE alone stores in the capture RAM and START alone in the snapshot RAM; READ, NOP, SNAP_CLOSE, RESET, ANALYZE
and its stages leave every slot of both unchanged. No operation changes the parameters, nor the model's own input queue (log 2), draws
and cycle counter (log 3), nor the held output `busy` (log 12). -/
def Obligations.OnlyEdgeAndStartStore : Prop :=
  ∀ (i : Instr) (s t : State), exec i s = .next t →
    ((∀ ts lvl en, i ≠ .edge ts lvl en) → ∀ k, capRead t k = capRead s k)
    ∧ (i ≠ .start → ∀ k, snapRead t k = snapRead s k)
    ∧ t.cfg = s.cfg ∧ t.stim = s.stim ∧ t.draws = s.draws ∧ t.cycle = s.cycle ∧ t.out.busy = s.out.busy

/-- 10_state.md R25, R26: every cycle keeps the invariant of the capture state. -/
def Obligations.StepKeepsCaptureInv : Prop :=
  ∀ s t : State, CaptureInv s → step s = .next t → CaptureInv t

/-- 10_state.md R31: every cycle keeps the invariant of the snapshot. -/
def Obligations.StepKeepsSnapInv : Prop :=
  ∀ s t : State, CaptureInv s → SnapInv s → step s = .next t → SnapInv t

/-- 10_state.md R33: every cycle keeps the invariant of the result registers. -/
def Obligations.StepKeepsResultInv : Prop :=
  ∀ s t : State, CaptureInv s → SnapInv s → ResultInv s.cfg s.res → step s = .next t → ResultInv t.cfg t.res

/-- 30_encoding.md R83, R76: every cycle ends in one of the three phases and leaves no stage's values behind. -/
def Obligations.StepKeepsBoundaryInv : Prop :=
  ∀ s t : State, BoundaryInv s → step s = .next t → BoundaryInv t

/-- The state after reset meets every invariant. -/
def Obligations.ResetIsSafe : Prop := SafeState State.reset

/-- 46_host_access.md R250, 70_reset_and_hazards.md R303, 30_encoding.md R86: a START accepted in a cycle, a window of `nSnap` cycles
and an analysis of `nAna` cycles, without a reset: in each of those cycles the block is busy and shows the old results, and after the
last it is idle with the result of the snapshot taken at that START. (That draws are a list in the state is the model's, log 3.) -/
def Obligations.AcceptedStartCommitsItsSnapshot : Prop :=
  ∀ (s : State) (nSnap nAna : Nat), s.phase = .idle → (nextBundle s).start = true → 1 ≤ nSnap → 1 ≤ nAna →
    (∀ b ∈ s.stim.take (nSnap + nAna + 1), b.rst = false) →
    nSnap + nAna + 1 ≤ s.draws.length →
    (∀ k d, s.draws[k]? = some d → 1 ≤ k → k ≤ nSnap → d.close = decide (k = nSnap)) →
    (∀ k d, s.draws[k]? = some d → nSnap < k → k ≤ nSnap + nAna → d.commit = decide (k = nSnap + nAna)) →
    ∃ t u, step s = .next t
      ∧ (∀ k, 1 ≤ k → k ≤ nSnap + nAna →
          ∃ v, runCycles k s = some v ∧ v.phase = (if k ≤ nSnap then .snap else .analyze) ∧ v.res = s.res)
      ∧ runCycles (nSnap + nAna + 1) s = some u ∧ u.phase = .idle ∧ u.res = windowResults s.cfg (snapshot t)

/-- 46_host_access.md R250, 00_scope.md R16: a host that asserts no reset sees every open analysis cycle end: once the window's draw
fires in some cycle and the analysis's draw in a later one, the block has been idle with the result of its snapshot by the end of
that cycle. Weak fairness (R16) is what makes such cycles come. (That draws are a list in the state is the model's, log 3.) -/
def Obligations.DrawsThatFireEndTheAnalysis : Prop :=
  ∀ (s : State) (i j : Nat) (di dj : Draw), (s.phase = .snap ∨ s.phase = .analyze) → (∀ b ∈ s.stim, b.rst = false) →
    s.draws[i]? = some di → di.close = true → i < j → s.draws[j]? = some dj → dj.commit = true →
    ∃ k u, k ≤ j + 1 ∧ runCycles k s = some u ∧ u.phase = .idle ∧ u.res = windowResults s.cfg (snapshot s)

/-! ## Scripts -/

/-- 30_encoding.md R85, R86: what every script line stands for, at the level the last CAPEN set, and that a WAIT ends with its first
read of BUSY = 0. A line of joined statements, one or more, sets the control bit of each and the fields of its edge and its read; with
RESET among them the cycle is a RESET. PULSE, IDLE, WAIT and RUN expand as R86 lists them. A RUN from IDLE takes the START cycle and
exactly `nSnap + nAna + 1` more, and leaves the result of its snapshot. (A run's bound on the cycles, and the host's moves, are the
model's, log 16; the list of draws too, log 3.) -/
def Obligations.ScriptsAssemble : Prop :=
  (∀ (w : Nat) (en v : Bool) (ts d : Ts) (n : Nat) (stmts : List Stmt) (ls : List ScriptLine),
    assemble w en [] = []
    ∧ assemble w en (.capen v :: ls) = assemble w v ls
    ∧ assemble w en (.cycle stmts :: ls) = .drive (lineBundle en stmts) :: assemble w en ls
    ∧ assemble w en (.pulse ts d :: ls) =
        .drive (lineBundle en [.edge ts false])
        :: .drive (lineBundle en [.edge (BitVec.ofNat 32 ((ts.toNat + d.toNat) % 2 ^ w)) true]) :: assemble w en ls
    ∧ assemble w en (.idle n :: ls) = List.replicate n (.drive (lineBundle en [.nop])) ++ assemble w en ls
    ∧ assemble w en (.wait :: ls) = .poll (lineBundle en [.read 0x00]) :: assemble w en ls
    ∧ assemble w en (.run :: ls) =
        .drive (lineBundle en [.start]) :: .poll (lineBundle en [.read 0x00]) :: assemble w en ls)
  ∧ (∀ (en : Bool) (stmts : List Stmt),
    let b := lineBundle en stmts
    b.capEn = en
    ∧ (b.rst = true ↔ .reset ∈ stmts)
    ∧ (b.edgeValid = true ↔ ∃ ts lvl, .edge ts lvl ∈ stmts)
    ∧ (b.start = true ↔ .start ∈ stmts)
    ∧ (b.regRd = true ↔ ∃ a, .read a ∈ stmts)
    ∧ (∀ ts lvl, .edge ts lvl ∈ stmts → (∀ ts' lvl', .edge ts' lvl' ∈ stmts → ts' = ts ∧ lvl' = lvl) →
        b.edgeTs = ts ∧ b.edgeLvl = lvl)
    ∧ (∀ a, .read a ∈ stmts → (∀ a', .read a' ∈ stmts → a' = a) → b.regAddr = a)
    ∧ (.reset ∈ stmts → b.ops = [.reset])
    ∧ ((∀ x ∈ stmts, x = .nop) → b.ops = [.nop]))
  ∧ (∀ (s t : State) (en : Bool) (k : Nat) (rest : List HostMove), step (placeBundle s (lineBundle en [.read 0x00])) = .next t →
    (s.phase = .idle → runHost (k + 1) (.poll (lineBundle en [.read 0x00]) :: rest) s = runHost k rest t)
    ∧ (s.phase ≠ .idle → runHost (k + 1) (.poll (lineBundle en [.read 0x00]) :: rest) s =
        runHost k (.poll (lineBundle en [.read 0x00]) :: rest) t))
  ∧ ∀ (s : State) (en : Bool) (nSnap nAna : Nat), s.phase = .idle → 1 ≤ nSnap → 1 ≤ nAna →
    nSnap + nAna + 1 ≤ s.draws.length →
    (∀ k d, s.draws[k]? = some d → 1 ≤ k → k ≤ nSnap → d.close = decide (k = nSnap)) →
    (∀ k d, s.draws[k]? = some d → nSnap < k → k ≤ nSnap + nAna → d.commit = decide (k = nSnap + nAna)) →
    (∀ k, k < nSnap + nAna + 2 → runScript k en [.run] s = none)
    ∧ ∃ u, runScript (nSnap + nAna + 2) en [.run] s = some u ∧ u.phase = .idle
        ∧ u.res = windowResults s.cfg (captured s)
end

