-- ==== Sys2Proof/Laws/Decode.lean ====
section
/-! SUPPORT. The operations of a bundle case by case, and bytes and numbers. -/

namespace Sys2Proof

/-- The operations of a bundle (30_encoding.md R74), case by case. -/
theorem Bundle.ops_eq (b : Bundle) : b.ops =
    if b.rst then [.reset]
    else if b.regRd || b.edgeValid || b.start then
      (if b.regRd then [.read b.regAddr b.capEn] else [])
        ++ (if b.edgeValid then [.edge b.edgeTs b.edgeLvl b.capEn] else [])
        ++ (if b.start then [.start] else [])
    else [.nop] := by
  obtain ⟨r, ev, el, et, ce, st, rd, ra⟩ := b
  cases r <;> cases ev <;> cases st <;> cases rd <;> simp [Bundle.ops, Bundle.ctl, Instr.row, Row.selects]

theorem Bundle.ops_of_rst {b : Bundle} (h : b.rst = true) : b.ops = [.reset] := by simp [Bundle.ops_eq, h]

@[simp] theorem natToBytes_length (n v : Nat) : (natToBytes n v).length = n := by
  induction n generalizing v with
  | zero => rfl
  | succ n ih => simp [natToBytes, ih]

theorem bytesToNat_natToBytes (n v : Nat) : bytesToNat (natToBytes n v) = v % 256 ^ n := by
  induction n generalizing v with
  | zero => simp [natToBytes, bytesToNat, Nat.mod_one]
  | succ n ih =>
    simp only [natToBytes, bytesToNat, ih, BitVec.toNat_ofNat]
    rw [Nat.pow_succ' (n := n) (m := 256)]
    exact (Nat.mod_mul (x := v) (a := 256) (b := 256 ^ n)).symm

/-- The word's bits give the bundle back. -/
theorem Bundle.ofWord_word (b : Bundle) : Bundle.ofWord b.word = b := by
  obtain ⟨r, ev, el, et, ce, st, rd, ra⟩ := b
  have h1 := ra.isLt
  have h2 := et.isLt
  have hw : (Bundle.word ⟨r, ev, el, et, ce, st, rd, ra⟩).toNat =
     ev.toNat + 2 * st.toNat + 4 * rd.toNat + 8 * r.toNat + 16 * ce.toNat + 32 * el.toNat + 64 * ra.toNat + 4096 * et.toNat := by
    have := Bool.toNat_lt r; have := Bool.toNat_lt ev; have := Bool.toNat_lt el; have := Bool.toNat_lt ce
    have := Bool.toNat_lt st; have := Bool.toNat_lt rd
    simp only [Bundle.word, Bundle.ctl, BitVec.toNat_ofNat]
    omega
  have := Bool.toNat_lt r; have := Bool.toNat_lt ev; have := Bool.toNat_lt el; have := Bool.toNat_lt ce
  have := Bool.toNat_lt st; have := Bool.toNat_lt rd
  have hb : ∀ (c : Bool) (n : Nat), n % 2 = c.toNat → decide (n % 2 = 1) = c := by
    intro c n h; rw [h]; cases c <;> rfl
  simp only [Bundle.ofWord, BitVec.getLsbD, hw, Nat.testBit_eq_decide_div_mod_eq, Bundle.mk.injEq]
  refine ⟨?_, ?_, ?_, ?_, ?_, ?_, ?_, ?_⟩
  · apply hb; omega
  · apply hb; omega
  · apply hb; omega
  · apply BitVec.eq_of_toNat_eq; simp only [BitVec.toNat_ofNat]; omega
  · apply hb; omega
  · apply hb; omega
  · apply hb; omega
  · apply BitVec.eq_of_toNat_eq; simp only [BitVec.toNat_ofNat]; omega

/-- The padding bits of a bundle's word are 0. -/
theorem Bundle.word_lt (b : Bundle) : b.word.toNat < 2 ^ 44 := by
  obtain ⟨r, ev, el, et, ce, st, rd, ra⟩ := b
  have h1 := ra.isLt
  have h2 := et.isLt
  have := Bool.toNat_lt r; have := Bool.toNat_lt ev; have := Bool.toNat_lt el; have := Bool.toNat_lt ce
  have := Bool.toNat_lt st; have := Bool.toNat_lt rd
  simp only [Bundle.word, Bundle.ctl, BitVec.toNat_ofNat]
  omega

end Sys2Proof
end

