-- ==== Sys2Proof/Laws/State.lean ====
section
/-! SUPPORT. What each named update of the state does to each field: true by definition, for simp. -/

namespace Sys2Proof.Machine

open Sys2Proof

variable (s : State)

/-! ## capWrite -/

@[simp] theorem capWrite_cfg (i : Nat) (e : Edge) : (capWrite s i e).cfg = s.cfg := rfl
@[simp] theorem capWrite_capMem (i : Nat) (e : Edge) : (capWrite s i e).capMem = s.capMem.write i e := rfl
@[simp] theorem capWrite_wptr (i : Nat) (e : Edge) : (capWrite s i e).wptr = s.wptr := rfl
@[simp] theorem capWrite_count (i : Nat) (e : Edge) : (capWrite s i e).count = s.count := rfl
@[simp] theorem capWrite_lastTs (i : Nat) (e : Edge) : (capWrite s i e).lastTs = s.lastTs := rfl
@[simp] theorem capWrite_lastValid (i : Nat) (e : Edge) : (capWrite s i e).lastValid = s.lastValid := rfl
@[simp] theorem capWrite_phase (i : Nat) (e : Edge) : (capWrite s i e).phase = s.phase := rfl
@[simp] theorem capWrite_snapMem (i : Nat) (e : Edge) : (capWrite s i e).snapMem = s.snapMem := rfl
@[simp] theorem capWrite_snapLen (i : Nat) (e : Edge) : (capWrite s i e).snapLen = s.snapLen := rfl
@[simp] theorem capWrite_res (i : Nat) (e : Edge) : (capWrite s i e).res = s.res := rfl
@[simp] theorem capWrite_out (i : Nat) (e : Edge) : (capWrite s i e).out = s.out := rfl
@[simp] theorem capWrite_work (i : Nat) (e : Edge) : (capWrite s i e).work = s.work := rfl
@[simp] theorem capWrite_stim (i : Nat) (e : Edge) : (capWrite s i e).stim = s.stim := rfl
@[simp] theorem capWrite_draws (i : Nat) (e : Edge) : (capWrite s i e).draws = s.draws := rfl
@[simp] theorem capWrite_cycle (i : Nat) (e : Edge) : (capWrite s i e).cycle = s.cycle := rfl

/-! ## append -/

@[simp] theorem append_cfg (e : Edge) : (append s e).cfg = s.cfg := rfl
@[simp] theorem append_capMem (e : Edge) : (append s e).capMem = s.capMem.write s.wptr.toNat e := rfl
@[simp] theorem append_wptr (e : Edge) : (append s e).wptr = BitVec.ofNat 16 ((s.wptr.toNat + 1) % s.cfg.cap) := rfl
@[simp] theorem append_count (e : Edge) : (append s e).count = BitVec.ofNat 17 (min (s.count.toNat + 1) s.cfg.cap) := rfl
@[simp] theorem append_lastTs (e : Edge) : (append s e).lastTs = e.ts := rfl
@[simp] theorem append_lastValid (e : Edge) : (append s e).lastValid = true := rfl
@[simp] theorem append_phase (e : Edge) : (append s e).phase = s.phase := rfl
@[simp] theorem append_snapMem (e : Edge) : (append s e).snapMem = s.snapMem := rfl
@[simp] theorem append_snapLen (e : Edge) : (append s e).snapLen = s.snapLen := rfl
@[simp] theorem append_res (e : Edge) : (append s e).res = s.res := rfl
@[simp] theorem append_out (e : Edge) : (append s e).out = s.out := rfl
@[simp] theorem append_work (e : Edge) : (append s e).work = s.work := rfl
@[simp] theorem append_stim (e : Edge) : (append s e).stim = s.stim := rfl
@[simp] theorem append_draws (e : Edge) : (append s e).draws = s.draws := rfl
@[simp] theorem append_cycle (e : Edge) : (append s e).cycle = s.cycle := rfl

/-! ## raiseSkip -/

@[simp] theorem raiseSkip_cfg (c : ResultCode) : (raiseSkip c s).cfg = s.cfg := rfl
@[simp] theorem raiseSkip_capMem (c : ResultCode) : (raiseSkip c s).capMem = s.capMem := rfl
@[simp] theorem raiseSkip_wptr (c : ResultCode) : (raiseSkip c s).wptr = s.wptr := rfl
@[simp] theorem raiseSkip_count (c : ResultCode) : (raiseSkip c s).count = s.count := rfl
@[simp] theorem raiseSkip_lastTs (c : ResultCode) : (raiseSkip c s).lastTs = s.lastTs := rfl
@[simp] theorem raiseSkip_lastValid (c : ResultCode) : (raiseSkip c s).lastValid = s.lastValid := rfl
@[simp] theorem raiseSkip_phase (c : ResultCode) : (raiseSkip c s).phase = .idle := rfl
@[simp] theorem raiseSkip_snapMem (c : ResultCode) : (raiseSkip c s).snapMem = s.snapMem := rfl
@[simp] theorem raiseSkip_snapLen (c : ResultCode) : (raiseSkip c s).snapLen = s.snapLen := rfl
@[simp] theorem raiseSkip_res (c : ResultCode) : (raiseSkip c s).res = { Results.zero with result := c, snapLen := s.snapLen } := rfl
@[simp] theorem raiseSkip_out (c : ResultCode) : (raiseSkip c s).out = s.out := rfl
@[simp] theorem raiseSkip_work (c : ResultCode) : (raiseSkip c s).work = Work.empty := rfl
@[simp] theorem raiseSkip_stim (c : ResultCode) : (raiseSkip c s).stim = s.stim := rfl
@[simp] theorem raiseSkip_draws (c : ResultCode) : (raiseSkip c s).draws = s.draws := rfl
@[simp] theorem raiseSkip_cycle (c : ResultCode) : (raiseSkip c s).cycle = s.cycle := rfl

/-! ## openSnapshot -/

@[simp] theorem openSnapshot_cfg : (openSnapshot s).cfg = s.cfg := rfl
@[simp] theorem openSnapshot_capMem : (openSnapshot s).capMem = s.capMem := rfl
@[simp] theorem openSnapshot_wptr : (openSnapshot s).wptr = s.wptr := rfl
@[simp] theorem openSnapshot_count : (openSnapshot s).count = s.count := rfl
@[simp] theorem openSnapshot_lastTs : (openSnapshot s).lastTs = s.lastTs := rfl
@[simp] theorem openSnapshot_lastValid : (openSnapshot s).lastValid = s.lastValid := rfl
@[simp] theorem openSnapshot_phase : (openSnapshot s).phase = .snap := rfl
@[simp] theorem openSnapshot_snapMem : (openSnapshot s).snapMem = s.snapMem.overlay (captured s) := rfl
@[simp] theorem openSnapshot_snapLen : (openSnapshot s).snapLen = s.count := rfl
@[simp] theorem openSnapshot_res : (openSnapshot s).res = s.res := rfl
@[simp] theorem openSnapshot_out : (openSnapshot s).out = s.out := rfl
@[simp] theorem openSnapshot_work : (openSnapshot s).work = s.work := rfl
@[simp] theorem openSnapshot_stim : (openSnapshot s).stim = s.stim := rfl
@[simp] theorem openSnapshot_draws : (openSnapshot s).draws = s.draws := rfl
@[simp] theorem openSnapshot_cycle : (openSnapshot s).cycle = s.cycle := rfl

/-! ## beginCycle -/

@[simp] theorem beginCycle_cfg : (beginCycle s).cfg = s.cfg := rfl
@[simp] theorem beginCycle_capMem : (beginCycle s).capMem = s.capMem := rfl
@[simp] theorem beginCycle_wptr : (beginCycle s).wptr = s.wptr := rfl
@[simp] theorem beginCycle_count : (beginCycle s).count = s.count := rfl
@[simp] theorem beginCycle_lastTs : (beginCycle s).lastTs = s.lastTs := rfl
@[simp] theorem beginCycle_lastValid : (beginCycle s).lastValid = s.lastValid := rfl
@[simp] theorem beginCycle_phase : (beginCycle s).phase = s.phase := rfl
@[simp] theorem beginCycle_snapMem : (beginCycle s).snapMem = s.snapMem := rfl
@[simp] theorem beginCycle_snapLen : (beginCycle s).snapLen = s.snapLen := rfl
@[simp] theorem beginCycle_res : (beginCycle s).res = s.res := rfl
@[simp] theorem beginCycle_out : (beginCycle s).out = { regRdata := 0, busy := s.busy } := rfl
@[simp] theorem beginCycle_work : (beginCycle s).work = s.work := rfl
@[simp] theorem beginCycle_stim : (beginCycle s).stim = s.stim.tail := rfl
@[simp] theorem beginCycle_draws : (beginCycle s).draws = s.draws.tail := rfl
@[simp] theorem beginCycle_cycle : (beginCycle s).cycle = s.cycle + 1 := rfl

/-! ## placeBundle -/

@[simp] theorem placeBundle_cfg (b : Bundle) : (placeBundle s b).cfg = s.cfg := rfl
@[simp] theorem placeBundle_capMem (b : Bundle) : (placeBundle s b).capMem = s.capMem := rfl
@[simp] theorem placeBundle_wptr (b : Bundle) : (placeBundle s b).wptr = s.wptr := rfl
@[simp] theorem placeBundle_count (b : Bundle) : (placeBundle s b).count = s.count := rfl
@[simp] theorem placeBundle_lastTs (b : Bundle) : (placeBundle s b).lastTs = s.lastTs := rfl
@[simp] theorem placeBundle_lastValid (b : Bundle) : (placeBundle s b).lastValid = s.lastValid := rfl
@[simp] theorem placeBundle_phase (b : Bundle) : (placeBundle s b).phase = s.phase := rfl
@[simp] theorem placeBundle_snapMem (b : Bundle) : (placeBundle s b).snapMem = s.snapMem := rfl
@[simp] theorem placeBundle_snapLen (b : Bundle) : (placeBundle s b).snapLen = s.snapLen := rfl
@[simp] theorem placeBundle_res (b : Bundle) : (placeBundle s b).res = s.res := rfl
@[simp] theorem placeBundle_out (b : Bundle) : (placeBundle s b).out = s.out := rfl
@[simp] theorem placeBundle_work (b : Bundle) : (placeBundle s b).work = s.work := rfl
@[simp] theorem placeBundle_stim (b : Bundle) : (placeBundle s b).stim = b :: s.stim.tail := rfl
@[simp] theorem placeBundle_draws (b : Bundle) : (placeBundle s b).draws = s.draws := rfl
@[simp] theorem placeBundle_cycle (b : Bundle) : (placeBundle s b).cycle = s.cycle := rfl

/-! ## placePhase -/

@[simp] theorem placePhase_cfg (c : BitVec 2) : (placePhase s c).cfg = s.cfg := rfl
@[simp] theorem placePhase_capMem (c : BitVec 2) : (placePhase s c).capMem = s.capMem := rfl
@[simp] theorem placePhase_wptr (c : BitVec 2) : (placePhase s c).wptr = s.wptr := rfl
@[simp] theorem placePhase_count (c : BitVec 2) : (placePhase s c).count = s.count := rfl
@[simp] theorem placePhase_lastTs (c : BitVec 2) : (placePhase s c).lastTs = s.lastTs := rfl
@[simp] theorem placePhase_lastValid (c : BitVec 2) : (placePhase s c).lastValid = s.lastValid := rfl
@[simp] theorem placePhase_phase (c : BitVec 2) : (placePhase s c).phase = Phase.ofCode c := rfl
@[simp] theorem placePhase_snapMem (c : BitVec 2) : (placePhase s c).snapMem = s.snapMem := rfl
@[simp] theorem placePhase_snapLen (c : BitVec 2) : (placePhase s c).snapLen = s.snapLen := rfl
@[simp] theorem placePhase_res (c : BitVec 2) : (placePhase s c).res = s.res := rfl
@[simp] theorem placePhase_out (c : BitVec 2) : (placePhase s c).out = s.out := rfl
@[simp] theorem placePhase_work (c : BitVec 2) : (placePhase s c).work = s.work := rfl
@[simp] theorem placePhase_stim (c : BitVec 2) : (placePhase s c).stim = Bundle.idle :: s.stim.tail := rfl
@[simp] theorem placePhase_draws (c : BitVec 2) : (placePhase s c).draws = { close := true, commit := true } :: s.draws.tail := rfl
@[simp] theorem placePhase_cycle (c : BitVec 2) : (placePhase s c).cycle = s.cycle := rfl

/-! ## extractStage -/

@[simp] theorem extractStage_cfg : (extractStage s).cfg = s.cfg := rfl
@[simp] theorem extractStage_capMem : (extractStage s).capMem = s.capMem := rfl
@[simp] theorem extractStage_wptr : (extractStage s).wptr = s.wptr := rfl
@[simp] theorem extractStage_count : (extractStage s).count = s.count := rfl
@[simp] theorem extractStage_lastTs : (extractStage s).lastTs = s.lastTs := rfl
@[simp] theorem extractStage_lastValid : (extractStage s).lastValid = s.lastValid := rfl
@[simp] theorem extractStage_phase : (extractStage s).phase = s.phase := rfl
@[simp] theorem extractStage_snapMem : (extractStage s).snapMem = s.snapMem := rfl
@[simp] theorem extractStage_snapLen : (extractStage s).snapLen = s.snapLen := rfl
@[simp] theorem extractStage_res : (extractStage s).res = s.res := rfl
@[simp] theorem extractStage_out : (extractStage s).out = s.out := rfl
@[simp] theorem extractStage_work : (extractStage s).work = { s.work with
      pulses := extractPulses s.cfg.width (snapshot s), rising := risingEdges s.cfg (snapshot s) } := rfl
@[simp] theorem extractStage_stim : (extractStage s).stim = s.stim := rfl
@[simp] theorem extractStage_draws : (extractStage s).draws = s.draws := rfl
@[simp] theorem extractStage_cycle : (extractStage s).cycle = s.cycle := rfl

/-! ## classifyStage -/

@[simp] theorem classifyStage_cfg : (classifyStage s).cfg = s.cfg := rfl
@[simp] theorem classifyStage_capMem : (classifyStage s).capMem = s.capMem := rfl
@[simp] theorem classifyStage_wptr : (classifyStage s).wptr = s.wptr := rfl
@[simp] theorem classifyStage_count : (classifyStage s).count = s.count := rfl
@[simp] theorem classifyStage_lastTs : (classifyStage s).lastTs = s.lastTs := rfl
@[simp] theorem classifyStage_lastValid : (classifyStage s).lastValid = s.lastValid := rfl
@[simp] theorem classifyStage_phase : (classifyStage s).phase = s.phase := rfl
@[simp] theorem classifyStage_snapMem : (classifyStage s).snapMem = s.snapMem := rfl
@[simp] theorem classifyStage_snapLen : (classifyStage s).snapLen = s.snapLen := rfl
@[simp] theorem classifyStage_res : (classifyStage s).res = s.res := rfl
@[simp] theorem classifyStage_out : (classifyStage s).out = s.out := rfl
@[simp] theorem classifyStage_work : (classifyStage s).work = { s.work with classes := classifyAll s.work.pulses } := rfl
@[simp] theorem classifyStage_stim : (classifyStage s).stim = s.stim := rfl
@[simp] theorem classifyStage_draws : (classifyStage s).draws = s.draws := rfl
@[simp] theorem classifyStage_cycle : (classifyStage s).cycle = s.cycle := rfl

/-! ## syncStage -/

@[simp] theorem syncStage_cfg : (syncStage s).cfg = s.cfg := rfl
@[simp] theorem syncStage_capMem : (syncStage s).capMem = s.capMem := rfl
@[simp] theorem syncStage_wptr : (syncStage s).wptr = s.wptr := rfl
@[simp] theorem syncStage_count : (syncStage s).count = s.count := rfl
@[simp] theorem syncStage_lastTs : (syncStage s).lastTs = s.lastTs := rfl
@[simp] theorem syncStage_lastValid : (syncStage s).lastValid = s.lastValid := rfl
@[simp] theorem syncStage_phase : (syncStage s).phase = s.phase := rfl
@[simp] theorem syncStage_snapMem : (syncStage s).snapMem = s.snapMem := rfl
@[simp] theorem syncStage_snapLen : (syncStage s).snapLen = s.snapLen := rfl
@[simp] theorem syncStage_res : (syncStage s).res = s.res := rfl
@[simp] theorem syncStage_out : (syncStage s).out = s.out := rfl
@[simp] theorem syncStage_work : (syncStage s).work = { s.work with
      cands := syncWith s.cfg.width s.work.pulses s.work.classes } := rfl
@[simp] theorem syncStage_stim : (syncStage s).stim = s.stim := rfl
@[simp] theorem syncStage_draws : (syncStage s).draws = s.draws := rfl
@[simp] theorem syncStage_cycle : (syncStage s).cycle = s.cycle := rfl

/-! ## decodeStage -/

@[simp] theorem decodeStage_cfg : (decodeStage s).cfg = s.cfg := rfl
@[simp] theorem decodeStage_capMem : (decodeStage s).capMem = s.capMem := rfl
@[simp] theorem decodeStage_wptr : (decodeStage s).wptr = s.wptr := rfl
@[simp] theorem decodeStage_count : (decodeStage s).count = s.count := rfl
@[simp] theorem decodeStage_lastTs : (decodeStage s).lastTs = s.lastTs := rfl
@[simp] theorem decodeStage_lastValid : (decodeStage s).lastValid = s.lastValid := rfl
@[simp] theorem decodeStage_phase : (decodeStage s).phase = s.phase := rfl
@[simp] theorem decodeStage_snapMem : (decodeStage s).snapMem = s.snapMem := rfl
@[simp] theorem decodeStage_snapLen : (decodeStage s).snapLen = s.snapLen := rfl
@[simp] theorem decodeStage_res : (decodeStage s).res = s.res := rfl
@[simp] theorem decodeStage_out : (decodeStage s).out = s.out := rfl
@[simp] theorem decodeStage_work : (decodeStage s).work = { s.work with decoded := decodeAll s.work.cands } := rfl
@[simp] theorem decodeStage_stim : (decodeStage s).stim = s.stim := rfl
@[simp] theorem decodeStage_draws : (decodeStage s).draws = s.draws := rfl
@[simp] theorem decodeStage_cycle : (decodeStage s).cycle = s.cycle := rfl

/-! ## statsStage -/

@[simp] theorem statsStage_cfg : (statsStage s).cfg = s.cfg := rfl
@[simp] theorem statsStage_capMem : (statsStage s).capMem = s.capMem := rfl
@[simp] theorem statsStage_wptr : (statsStage s).wptr = s.wptr := rfl
@[simp] theorem statsStage_count : (statsStage s).count = s.count := rfl
@[simp] theorem statsStage_lastTs : (statsStage s).lastTs = s.lastTs := rfl
@[simp] theorem statsStage_lastValid : (statsStage s).lastValid = s.lastValid := rfl
@[simp] theorem statsStage_phase : (statsStage s).phase = s.phase := rfl
@[simp] theorem statsStage_snapMem : (statsStage s).snapMem = s.snapMem := rfl
@[simp] theorem statsStage_snapLen : (statsStage s).snapLen = s.snapLen := rfl
@[simp] theorem statsStage_res : (statsStage s).res = s.res := rfl
@[simp] theorem statsStage_out : (statsStage s).out = s.out := rfl
@[simp] theorem statsStage_work : (statsStage s).work = { s.work with
      stats := windowStats s.cfg (snapshot s) s.work.pulses s.work.classes s.work.rising s.work.decoded } := rfl
@[simp] theorem statsStage_stim : (statsStage s).stim = s.stim := rfl
@[simp] theorem statsStage_draws : (statsStage s).draws = s.draws := rfl
@[simp] theorem statsStage_cycle : (statsStage s).cycle = s.cycle := rfl

/-! ## verdictStage -/

@[simp] theorem verdictStage_cfg : (verdictStage s).cfg = s.cfg := rfl
@[simp] theorem verdictStage_capMem : (verdictStage s).capMem = s.capMem := rfl
@[simp] theorem verdictStage_wptr : (verdictStage s).wptr = s.wptr := rfl
@[simp] theorem verdictStage_count : (verdictStage s).count = s.count := rfl
@[simp] theorem verdictStage_lastTs : (verdictStage s).lastTs = s.lastTs := rfl
@[simp] theorem verdictStage_lastValid : (verdictStage s).lastValid = s.lastValid := rfl
@[simp] theorem verdictStage_phase : (verdictStage s).phase = s.phase := rfl
@[simp] theorem verdictStage_snapMem : (verdictStage s).snapMem = s.snapMem := rfl
@[simp] theorem verdictStage_snapLen : (verdictStage s).snapLen = s.snapLen := rfl
@[simp] theorem verdictStage_res : (verdictStage s).res = s.res := rfl
@[simp] theorem verdictStage_out : (verdictStage s).out = s.out := rfl
@[simp] theorem verdictStage_work : (verdictStage s).work = { s.work with verdict := verdictOf s.work.stats } := rfl
@[simp] theorem verdictStage_stim : (verdictStage s).stim = s.stim := rfl
@[simp] theorem verdictStage_draws : (verdictStage s).draws = s.draws := rfl
@[simp] theorem verdictStage_cycle : (verdictStage s).cycle = s.cycle := rfl

/-! ## commitStage -/

@[simp] theorem commitStage_cfg : (commitStage s).cfg = s.cfg := rfl
@[simp] theorem commitStage_capMem : (commitStage s).capMem = s.capMem := rfl
@[simp] theorem commitStage_wptr : (commitStage s).wptr = s.wptr := rfl
@[simp] theorem commitStage_count : (commitStage s).count = s.count := rfl
@[simp] theorem commitStage_lastTs : (commitStage s).lastTs = s.lastTs := rfl
@[simp] theorem commitStage_lastValid : (commitStage s).lastValid = s.lastValid := rfl
@[simp] theorem commitStage_phase : (commitStage s).phase = .idle := rfl
@[simp] theorem commitStage_snapMem : (commitStage s).snapMem = s.snapMem := rfl
@[simp] theorem commitStage_snapLen : (commitStage s).snapLen = s.snapLen := rfl
@[simp] theorem commitStage_res : (commitStage s).res = fullResults s.snapLen s.work.stats s.work.verdict s.work.decoded := rfl
@[simp] theorem commitStage_out : (commitStage s).out = s.out := rfl
@[simp] theorem commitStage_work : (commitStage s).work = Work.empty := rfl
@[simp] theorem commitStage_stim : (commitStage s).stim = s.stim := rfl
@[simp] theorem commitStage_draws : (commitStage s).draws = s.draws := rfl
@[simp] theorem commitStage_cycle : (commitStage s).cycle = s.cycle := rfl

/-! ## Reads that an update leaves alone -/

/-- Reading the snapshot depends on SNAPMEM, `snap_len` and `W` only. -/
theorem snapRead_congr {s t : State} (hc : t.cfg = s.cfg) (hm : t.snapMem = s.snapMem) (j : Nat) :
    snapRead t j = snapRead s j := by
  simp only [snapRead, hc, hm]

theorem snapshot_congr {s t : State} (hc : t.cfg = s.cfg) (hm : t.snapMem = s.snapMem) (hl : t.snapLen = s.snapLen) :
    snapshot t = snapshot s := by
  simp only [snapshot, hl]
  exact List.map_congr_left fun j _ => snapRead_congr hc hm j

/-- Reading the ring depends on CAPMEM, `wptr`, `count`, `C` and `W` only. -/
theorem capRead_congr {s t : State} (hc : t.cfg = s.cfg) (hm : t.capMem = s.capMem) (i : Nat) :
    capRead t i = capRead s i := by
  simp only [capRead, hc, hm]

theorem captured_congr {s t : State} (hc : t.cfg = s.cfg) (hm : t.capMem = s.capMem) (hw : t.wptr = s.wptr)
    (hn : t.count = s.count) : captured t = captured s := by
  have hr : ∀ j, ringSlot t j = ringSlot s j := fun j => by simp only [ringSlot, hc, hw, hn]
  simp only [captured, hn, hr]
  exact List.map_congr_left fun j _ => capRead_congr hc hm _

@[simp] theorem snapshot_length : (snapshot s).length = s.snapLen.toNat := by simp [snapshot]

@[simp] theorem captured_length : (captured s).length = s.count.toNat := by simp [captured]

end Sys2Proof.Machine
end

