-- ==== Sys2Proof/Laws/Exec.lean ====
section
/-! SUPPORT. Every operation completes: the state after it, and what each can change. The step in those terms. -/

namespace Sys2Proof.Machine

open Sys2Proof

/-- The state after an operation. -/
def after (i : Instr) (s : State) : State :=
  match i with
  | .reset => { s with
      wptr := 0, count := 0, lastValid := false, phase := .idle, snapLen := 0, res := Results.zero
      out := { s.out with regRdata := 0 }, work := Work.empty }
  | .edge ts lvl capEn =>
    if capEn = false ∨ s.phase = .snap ∨ debounced s (zextTs s.cfg.width ts) = true then s
    else append s { ts := zextTs s.cfg.width ts, lvl := lvl }
  | .start => if s.phase = .idle then openSnapshot s else s
  | .read a en => { s with out := { s.out with regRdata := readReg s a en } }
  | .nop => { s with out := { s.out with regRdata := 0 } }
  | .snapClose => if s.phase = .snap then { s with phase := .analyze } else s
  | .analyze => if s.phase = .analyze then analyzeWindow s else s
  | .extract => if s.phase = .analyze then extractStage s else s
  | .classify => if s.phase = .analyze then classifyStage s else s
  | .sync => if s.phase = .analyze then syncStage s else s
  | .decode => if s.phase = .analyze then decodeStage s else s
  | .stats => if s.phase = .analyze then statsStage s else s
  | .verdict => if s.phase = .analyze then verdictStage s else s
  | .commit => if s.phase = .analyze then commitStage s else s

theorem execEdge_eq (ts : Ts) (lvl capEn : Bool) (s : State) :
    execEdge ts lvl capEn s = .next (after (.edge ts lvl capEn) s) := by
  simp only [execEdge, after]
  by_cases h1 : capEn = false <;> by_cases h2 : s.phase = .snap <;> cases debounced s (zextTs s.cfg.width ts) <;>
    simp [h1, h2]

/-- Every operation answers the state after it. -/
theorem exec_eq (i : Instr) (s : State) : exec i s = .next (after i s) := by
  cases i with
  | edge ts lvl capEn => exact execEdge_eq ts lvl capEn s
  | reset => rfl
  | read a en => rfl
  | nop => rfl
  | start => simp only [exec, execStart, after]; split <;> rfl
  | snapClose => simp only [exec, execSnapClose, after]; split <;> rfl
  | analyze => simp only [exec, execAnalyze, after]; split <;> rfl
  | extract => simp only [exec, execExtract, after]; split <;> rfl
  | classify => simp only [exec, execClassify, after]; split <;> rfl
  | sync => simp only [exec, execSync, after]; split <;> rfl
  | decode => simp only [exec, execDecode, after]; split <;> rfl
  | stats => simp only [exec, execStats, after]; split <;> rfl
  | verdict => simp only [exec, execVerdict, after]; split <;> rfl
  | commit => simp only [exec, execCommit, after]; split <;> rfl

theorem exec_next {i : Instr} {s t : State} (h : exec i s = .next t) : t = after i s := by
  rw [exec_eq] at h
  exact (Host.Outcome.next.inj h).symm

/-- A list of operations runs to the end. -/
theorem runOps_eq (is : List Instr) (s : State) : runOps is s = .next (is.foldl (fun s i => after i s) s) := by
  induction is generalizing s with
  | nil => rfl
  | cons i is ih => simp [runOps, exec_eq, ih]

/-- A cycle that does not fault runs its operations to the end. -/
theorem step_eq {s : State} (h : cycleFaults s = false) :
    step s = .next ((cycleOps s).foldl (fun s i => after i s) (beginCycle s)) := by
  simp [step, h, runOps_eq]

theorem step_next {s t : State} (h : step s = .next t) :
    cycleFaults s = false ∧ t = (cycleOps s).foldl (fun s i => after i s) (beginCycle s) := by
  cases hf : cycleFaults s with
  | true => simp [step, hf] at h
  | false =>
    rw [step_eq hf] at h
    exact ⟨rfl, (Host.Outcome.next.inj h).symm⟩

/-- Package of an induction over the operations of a cycle: what holds when the cycle begins and every operation keeps holds
after the cycle. -/
theorem step_keeps {P : State → Prop} (hb : ∀ s, P s → P (beginCycle s)) (ho : ∀ i s, P s → P (after i s)) {s t : State}
    (hs : P s) (h : step s = .next t) : P t := by
  rw [(step_next h).2]
  generalize cycleOps s = is
  have key : ∀ (is : List Instr) (u : State), P u → P (is.foldl (fun s i => after i s) u) := by
    intro is
    induction is with
    | nil => exact fun u hu => hu
    | cons i is ih => exact fun u hu => ih _ (ho i u hu)
  exact key is _ (hb s hs)

/-! ## Phase and draws -/

@[simp] theorem internalOps_idle (d : Draw) : internalOps .idle d = [] := rfl
@[simp] theorem internalOps_reserved (d : Draw) : internalOps .reserved d = [] := rfl
@[simp] theorem internalOps_snap (d : Draw) : internalOps .snap d = if d.close then [.snapClose] else [] := rfl
@[simp] theorem internalOps_analyze (d : Draw) : internalOps .analyze d = if d.commit then [.analyze] else [] := rfl

/-! ## ANALYZE as a whole -/

variable (s : State)

@[simp] theorem analyzeWindow_cfg : (analyzeWindow s).cfg = s.cfg := by
  unfold analyzeWindow; split
  · simp
  · split <;> simp

@[simp] theorem analyzeWindow_capMem : (analyzeWindow s).capMem = s.capMem := by
  unfold analyzeWindow; split
  · simp
  · split <;> simp

@[simp] theorem analyzeWindow_wptr : (analyzeWindow s).wptr = s.wptr := by
  unfold analyzeWindow; split
  · simp
  · split <;> simp

@[simp] theorem analyzeWindow_count : (analyzeWindow s).count = s.count := by
  unfold analyzeWindow; split
  · simp
  · split <;> simp

@[simp] theorem analyzeWindow_lastTs : (analyzeWindow s).lastTs = s.lastTs := by
  unfold analyzeWindow; split
  · simp
  · split <;> simp

@[simp] theorem analyzeWindow_lastValid : (analyzeWindow s).lastValid = s.lastValid := by
  unfold analyzeWindow; split
  · simp
  · split <;> simp

@[simp] theorem analyzeWindow_snapMem : (analyzeWindow s).snapMem = s.snapMem := by
  unfold analyzeWindow; split
  · simp
  · split <;> simp

@[simp] theorem analyzeWindow_snapLen : (analyzeWindow s).snapLen = s.snapLen := by
  unfold analyzeWindow; split
  · simp
  · split <;> simp

@[simp] theorem analyzeWindow_out : (analyzeWindow s).out = s.out := by
  unfold analyzeWindow; split
  · simp
  · split <;> simp

@[simp] theorem analyzeWindow_stim : (analyzeWindow s).stim = s.stim := by
  unfold analyzeWindow; split
  · simp
  · split <;> simp

@[simp] theorem analyzeWindow_draws : (analyzeWindow s).draws = s.draws := by
  unfold analyzeWindow; split
  · simp
  · split <;> simp

@[simp] theorem analyzeWindow_cycle : (analyzeWindow s).cycle = s.cycle := by
  unfold analyzeWindow; split
  · simp
  · split <;> simp

@[simp] theorem analyzeWindow_phase : (analyzeWindow s).phase = .idle := by
  unfold analyzeWindow; split
  · simp
  · split <;> simp

@[simp] theorem analyzeWindow_work : (analyzeWindow s).work = Work.empty := by
  unfold analyzeWindow; split
  · simp
  · split <;> simp

/-- ANALYZE changes the result registers, the phase and nothing else. -/
theorem analyzeWindow_frame :
    analyzeWindow s = { s with res := (analyzeWindow s).res, phase := .idle, work := Work.empty } := by
  ext1 <;> simp

end Sys2Proof.Machine
end

