-- ==== Sys2Proof/Laws/Memory.lean ====
section
/-! SUPPORT. The laws of the edge RAMs: what a read finds after a write or a copy, and that both keep the canonical form. -/

namespace Sys2Proof.Machine

open Sys2Proof

theorem Memory.read_write_same (m : Memory) (i : Nat) (e : Edge) : (Memory.write m i e).read i = some e := by
  induction m with
  | nil => simp [Memory.write, Memory.read]
  | cons c m ih =>
    obtain ⟨a, x⟩ := c
    simp only [Memory.write]
    split
    · simp [Memory.read]
    · split
      · simp [Memory.read]
      · next h => simpa [Memory.read, h] using ih

theorem Memory.read_write_other (m : Memory) (i k : Nat) (e : Edge) (h : k ≠ i) : (Memory.write m i e).read k = m.read k := by
  induction m with
  | nil => simp [Memory.write, Memory.read, h.symm]
  | cons c m ih =>
    obtain ⟨a, x⟩ := c
    simp only [Memory.write]
    split
    · simp [Memory.read, h.symm]
    · split
      · next ha => subst ha; simp [Memory.read, h.symm]
      · simp [Memory.read, ih]

theorem Memory.mem_write {m : Memory} {i : Nat} {e : Edge} {c : Nat × Edge} (h : c ∈ Memory.write m i e) : c = (i, e) ∨ c ∈ m := by
  induction m with
  | nil => simpa [Memory.write] using h
  | cons d m ih =>
    obtain ⟨a, x⟩ := d
    simp only [Memory.write] at h
    split at h
    · simpa using h
    · split at h <;> rcases List.mem_cons.1 h with h | h
      · exact .inl h
      · exact .inr (List.mem_cons_of_mem _ h)
      · exact .inr (h ▸ List.mem_cons_self)
      · rcases ih h with h | h
        · exact .inl h
        · exact .inr (List.mem_cons_of_mem _ h)

/-- A slot write keeps the canonical form. -/
theorem Memory.wf_write {m : Memory} (h : m.wf) (i : Nat) (e : Edge) : (Memory.write m i e).wf := by
  induction m with
  | nil => simp [Memory.write, Memory.wf]
  | cons c m ih =>
    obtain ⟨a, x⟩ := c
    obtain ⟨ha, hm⟩ := List.pairwise_cons.1 h
    simp only [Memory.write]
    split
    · next hi =>
      refine List.pairwise_cons.2 ⟨fun d hd => ?_, h⟩
      rcases List.mem_cons.1 hd with rfl | hd
      · exact hi
      · exact Nat.lt_trans hi (ha d hd)
    · split
      · next hi => exact List.pairwise_cons.2 ⟨fun d hd => hi ▸ ha d hd, hm⟩
      · next h1 h2 =>
        refine List.pairwise_cons.2 ⟨fun d hd => ?_, ih hm⟩
        rcases Memory.mem_write hd with rfl | hd
        · simp only; omega
        · exact ha d hd

/-- A slot that is read as written is listed. -/
theorem Memory.mem_of_read {m : Memory} {i : Nat} {e : Edge} (h : m.read i = some e) : (i, e) ∈ m := by
  induction m with
  | nil => simp [Memory.read] at h
  | cons c m ih =>
    obtain ⟨a, x⟩ := c
    simp only [Memory.read] at h
    split at h
    · next ha => simp_all
    · exact List.mem_cons_of_mem _ (ih h)

theorem Memory.read_none_of_forall_ne {m : Memory} {i : Nat} (h : ∀ c ∈ m, c.1 ≠ i) : m.read i = none := by
  cases hr : m.read i with
  | none => rfl
  | some e => exact absurd rfl (h _ (Memory.mem_of_read hr))

theorem Memory.read_append (m n : Memory) (i : Nat) : Memory.read (m ++ n) i = (m.read i).or (n.read i) := by
  induction m with
  | nil => simp [Memory.read]
  | cons c m ih =>
    obtain ⟨a, x⟩ := c
    simp only [List.cons_append, Memory.read]
    split <;> simp_all

/-- Reading the copied part of `overlay`. -/
theorem Memory.read_enum (es : List Edge) (k i : Nat) :
    Memory.read ((es.zipIdx k).map fun p => (p.2, p.1)) i = if k ≤ i then es[i - k]? else none := by
  induction es generalizing k with
  | nil => simp [Memory.read]
  | cons e es ih =>
    simp only [List.zipIdx_cons, List.map_cons, Memory.read, ih]
    by_cases h : k = i
    · simp [h]
    · by_cases hk : k + 1 ≤ i
      · have h1 : i - k = (i - (k + 1)) + 1 := by omega
        simp [h, hk, Nat.le_of_succ_le hk, h1]
      · have h2 : ¬ k ≤ i := by omega
        simp [h, hk, h2]

theorem Memory.read_filter_ge (m : Memory) (n i : Nat) (h : n ≤ i) :
    Memory.read (m.filter fun c => decide (n ≤ c.1)) i = m.read i := by
  induction m with
  | nil => rfl
  | cons c m ih =>
    obtain ⟨a, x⟩ := c
    by_cases ha : n ≤ a
    · simp [ha, Memory.read, ih]
    · have : a ≠ i := by omega
      simp [ha, Memory.read, this, ih]

/-- A copied slot reads as the copied edge. -/
theorem Memory.read_overlay_lt (m : Memory) (es : List Edge) {j : Nat} (h : j < es.length) :
    (m.overlay es).read j = some es[j] := by
  simp [Memory.overlay, Memory.read_append, Memory.read_enum, h]

/-- A slot past the copy reads as before. -/
theorem Memory.read_overlay_ge (m : Memory) (es : List Edge) {j : Nat} (h : es.length ≤ j) :
    (m.overlay es).read j = m.read j := by
  simp [Memory.overlay, Memory.read_append, Memory.read_enum, List.getElem?_eq_none h, Memory.read_filter_ge _ _ _ h]

theorem Memory.mem_overlay {m : Memory} {es : List Edge} {c : Nat × Edge} (h : c ∈ m.overlay es) :
    (c.1 < es.length ∧ c.2 ∈ es) ∨ c ∈ m := by
  rcases List.mem_append.1 h with h | h
  · obtain ⟨⟨e, j⟩, hp, rfl⟩ := List.mem_map.1 h
    have := List.mem_zipIdx hp
    exact .inl ⟨by omega, by rw [this.2.2]; exact List.getElem_mem _⟩
  · exact .inr (List.mem_filter.1 h).1

/-- The copy keeps the canonical form. -/
theorem Memory.wf_overlay {m : Memory} (h : m.wf) (es : List Edge) : (m.overlay es).wf := by
  refine List.pairwise_append.2 ⟨?_, h.filter _, fun a ha b hb => ?_⟩
  · have key : ∀ (es : List Edge) (k : Nat),
        ((es.zipIdx k).map fun p => (p.2, p.1)).Pairwise fun x y : Nat × Edge => x.1 < y.1 := by
      intro es
      induction es with
      | nil => intro k; simp
      | cons e es ih =>
        intro k
        refine List.pairwise_cons.2 ⟨fun d hd => ?_, ih (k + 1)⟩
        obtain ⟨⟨x, j⟩, hp, rfl⟩ := List.mem_map.1 hd
        exact (List.mem_zipIdx hp).1
    exact key es 0
  · obtain ⟨⟨x, j⟩, hp, rfl⟩ := List.mem_map.1 ha
    have h1 := (List.mem_zipIdx hp).2.1
    have h2 := (List.mem_filter.1 hb).2
    simp only [decide_eq_true_eq] at h2
    simp only
    omega

end Sys2Proof.Machine
end

