-- ==== Sys2Proof/Laws/PerInstr.lean ====
section
/-! SUPPORT. Laws of the operations as syntax, one lemma per constructor. -/

namespace Sys2Proof.Laws

open Sys2Proof

/-- Encoded bits are selected by the operation's own row of the opcode table and fit its format. -/
def RowSelectsOwnBits.Statement (i : Instr) : Prop :=
  i.row.selects ((match i.row.format with
    | .ctl => i.bundle.ctl.toNat
    | .phase | .stage => i.bits % 4)) = true

theorem RowSelectsOwnBits.reset : RowSelectsOwnBits.Statement .reset := by
  simp [RowSelectsOwnBits.Statement, Instr.row, Instr.bundle, Bundle.ctl, Bundle.idle, Row.selects]

theorem RowSelectsOwnBits.edge (ts : Ts) (lvl capEn : Bool) : RowSelectsOwnBits.Statement (.edge ts lvl capEn) := by
  simp [RowSelectsOwnBits.Statement, Instr.row, Instr.bundle, Bundle.ctl, Bundle.idle, Row.selects]

theorem RowSelectsOwnBits.start : RowSelectsOwnBits.Statement .start := by
  simp [RowSelectsOwnBits.Statement, Instr.row, Instr.bundle, Bundle.ctl, Bundle.idle, Row.selects]

theorem RowSelectsOwnBits.read (addr : RegAddr) (capEn : Bool) : RowSelectsOwnBits.Statement (.read addr capEn) := by
  simp [RowSelectsOwnBits.Statement, Instr.row, Instr.bundle, Bundle.ctl, Bundle.idle, Row.selects]

theorem RowSelectsOwnBits.nop : RowSelectsOwnBits.Statement .nop := by
  simp [RowSelectsOwnBits.Statement, Instr.row, Instr.bundle, Bundle.ctl, Bundle.idle, Row.selects]

theorem RowSelectsOwnBits.snapClose : RowSelectsOwnBits.Statement .snapClose := rfl

theorem RowSelectsOwnBits.analyze : RowSelectsOwnBits.Statement .analyze := rfl

theorem RowSelectsOwnBits.extract : RowSelectsOwnBits.Statement .extract := rfl

theorem RowSelectsOwnBits.classify : RowSelectsOwnBits.Statement .classify := rfl

theorem RowSelectsOwnBits.sync : RowSelectsOwnBits.Statement .sync := rfl

theorem RowSelectsOwnBits.decode : RowSelectsOwnBits.Statement .decode := rfl

theorem RowSelectsOwnBits.stats : RowSelectsOwnBits.Statement .stats := rfl

theorem RowSelectsOwnBits.verdict : RowSelectsOwnBits.Statement .verdict := rfl

theorem RowSelectsOwnBits.commit : RowSelectsOwnBits.Statement .commit := rfl

end Sys2Proof.Laws
end

