-- ==== Sys2Proof/Laws/Stimulus.lean ====
section
/-! SUPPORT. What one cycle does to a run of host moves, and a snapshot's edges by index after a cons. -/

namespace Sys2Proof.Machine

open Sys2Proof

/-! ## Host moves -/

@[simp] theorem runHost_nil (k : Nat) (s : State) : runHost k [] s = some s := by cases k <;> rfl

@[simp] theorem runHost_zero_cons (m : HostMove) (ms : List HostMove) (s : State) : runHost 0 (m :: ms) s = none := by
  cases m <;> rfl

theorem runHost_drive {s t : State} {b : Bundle} (h : step (placeBundle s b) = .next t) (k : Nat) (ms : List HostMove) :
    runHost (k + 1) (.drive b :: ms) s = runHost k ms t := by
  simp [runHost, h]

theorem runHost_poll {s t : State} {b : Bundle} (h : step (placeBundle s b) = .next t) (k : Nat) (ms : List HostMove) :
    runHost (k + 1) (.poll b :: ms) s = if sawBusy t then runHost k (.poll b :: ms) t else runHost k ms t := by
  simp [runHost, h]

/-- A run that is over stays the same under any larger bound (log 16). -/
theorem runHost_mono {k : Nat} {ms : List HostMove} {s u : State} (h : runHost k ms s = some u) (n : Nat) :
    runHost (k + n) ms s = some u := by
  induction k generalizing ms s with
  | zero => cases ms with
    | nil => simpa using h
    | cons m ms => simp at h
  | succ k ih =>
    rw [Nat.succ_add]
    cases ms with
    | nil => simpa using h
    | cons m ms =>
      cases m <;> simp only [runHost] at h ⊢ <;> split at h
      · exact ih h
      · cases h
      · cases h
      · split at h
        · next hb => rw [if_pos hb]; exact ih h
        · next hb => rw [if_neg hb]; exact ih h
      · cases h
      · cases h

/-! ## Edges by index -/

@[simp] theorem levelAt_nil (i : Nat) : levelAt [] i = none := rfl
@[simp] theorem levelAt_cons_zero (e : Edge) (es : List Edge) : levelAt (e :: es) 0 = some e.lvl := rfl
@[simp] theorem levelAt_cons_succ (e : Edge) (es : List Edge) (i : Nat) : levelAt (e :: es) (i + 1) = levelAt es i := rfl
@[simp] theorem tsOf_nil (i : Nat) : tsOf [] i = none := rfl
@[simp] theorem tsOf_cons_zero (e : Edge) (es : List Edge) : tsOf (e :: es) 0 = some e.ts := rfl
@[simp] theorem tsOf_cons_succ (e : Edge) (es : List Edge) (i : Nat) : tsOf (e :: es) (i + 1) = tsOf es i := rfl

end Sys2Proof.Machine
end

