-- ==== Sys2Proof/Laws/Window.lean ====
section
/-! SUPPORT. What the shared operations of an analysis give: the two's-complement difference, a fresh snapshot, and ANALYZE as one
function of the snapshot. -/

namespace Sys2Proof.Machine

open Sys2Proof

/-! ## Arithmetic -/

/-- `sext_n` lies in the range of `n`-bit two's complement and keeps its argument modulo `2^n`. -/
theorem sext_range (m : Nat) (v : Int) :
    -(2 ^ m) ≤ sext (m + 1) v ∧ sext (m + 1) v < 2 ^ m ∧ (2 ^ (m + 1) : Int) ∣ sext (m + 1) v - v := by
  have hp : (2 : Int) ^ (m + 1) = 2 * 2 ^ m := by ring
  have hpos : (0 : Int) < 2 ^ m := by positivity
  have h0 := Int.emod_nonneg v (b := (2 : Int) ^ (m + 1)) (by positivity)
  have h1 := Int.emod_lt_of_pos v (b := (2 : Int) ^ (m + 1)) (by positivity)
  have h2 : (2 ^ (m + 1) : Int) ∣ v % 2 ^ (m + 1) - v := by
    rw [← Int.neg_sub, Int.dvd_neg]; exact Int.dvd_self_sub_emod
  simp only [sext, Nat.add_sub_cancel]
  split
  · exact ⟨by omega, by omega, h2⟩
  · refine ⟨by omega, by omega, ?_⟩
    have : v % 2 ^ (m + 1) - 2 ^ (m + 1) - v = (v % 2 ^ (m + 1) - v) - 2 ^ (m + 1) := by ring
    rw [this]
    exact Int.dvd_sub h2 (dvd_refl _)

/-- The timestamp of a true time, as a number (41_pulse_extract.md R131). -/
theorem tsAt_toNat {w : Nat} (hw : w ≤ 32) (t : Int) : ((tsAt w t).toNat : Int) = t % 2 ^ w := by
  have h0 := Int.emod_nonneg t (b := (2 : Int) ^ w) (by positivity)
  have h1 := Int.emod_lt_of_pos t (b := (2 : Int) ^ w) (by positivity)
  have h2 : (2 : Int) ^ w ≤ 2 ^ 32 := pow_le_pow_right₀ (by norm_num) hw
  simp only [tsAt, BitVec.toNat_ofNat]
  rw [Nat.mod_eq_of_lt] <;> omega

/-- There is one gap fewer than timestamps. -/
@[simp] theorem gaps_length (w : Nat) (ts : List Ts) : (gaps w ts).length = ts.length - 1 := by
  induction ts with
  | nil => rfl
  | cons a ts ih => cases ts with
    | nil => rfl
    | cons b ts => simp [gaps, ih]

/-! ## The snapshot -/

/-- A slot below the copied length reads as the ring's edge, and every other slot as before (40_capture.md R111). -/
theorem snapRead_openSnapshot (s : State) (j : Nat) :
    snapRead (openSnapshot s) j = if j < s.count.toNat then capRead s (ringSlot s j) else snapRead s j := by
  by_cases h : j < s.count.toNat
  · have h' : j < (captured s).length := by simpa using h
    simp only [snapRead, openSnapshot_snapMem, Memory.read_overlay_lt _ _ h', if_pos h]
    simp [captured]
  · have h' : (captured s).length ≤ j := by simpa using h
    simp only [snapRead, openSnapshot_snapMem, Memory.read_overlay_ge _ _ h', if_neg h, openSnapshot_cfg]

/-- A fresh snapshot lists the ring's edges. -/
theorem snapshot_openSnapshot (s : State) : snapshot (openSnapshot s) = captured s := by
  apply List.ext_getElem
  · simp
  · intro j h1 h2
    have : j < s.count.toNat := by simpa using h2
    simp [snapshot, snapRead_openSnapshot, this, captured]

/-! ## The cycle's inputs -/

theorem nextBundle_cons {s : State} {b : Bundle} {rest : List Bundle} (h : s.stim = b :: rest) : nextBundle s = b := by
  simp [nextBundle, h]

theorem nextBundle_nil {s : State} (h : s.stim = []) : nextBundle s = Bundle.idle := by simp [nextBundle, h]

theorem nextDraw_cons {s : State} {d : Draw} {rest : List Draw} (h : s.draws = d :: rest) : nextDraw s = d := by
  simp [nextDraw, h]

/-! ## ANALYZE -/

/-- What ANALYZE commits is a function of the parameters and the snapshot (45_signal_classify.md R230). -/
theorem analyzeWindow_res (s : State) : (analyzeWindow s).res = windowResults s.cfg (snapshot s) := by
  simp only [analyzeWindow, windowResults, snapshot_length, BitVec.ofNat_toNat, BitVec.setWidth_eq]
  split
  · rfl
  · by_cases h : extractPulses s.cfg.width (snapshot s) = [] <;> simp [h, raiseSkip]
    rfl

end Sys2Proof.Machine
end

