-- ==== Sys2Proof/Tests/Slice0.lean ====
section
/-! SUPPORT. Tests: ill-formed terms that WellFormed refuses, words written out from 30_encoding.md, one-step tests from the
vectors of 95_test_vectors.md, and for every statement with hypotheses a state that meets them. -/

namespace Sys2Proof.Tests

open Sys2Proof Sys2Proof.Machine

set_option Elab.async false

/-! ## Builders -/

/-- The next state of an outcome, if there is one. -/
def nextOf (o : Host.Outcome State Fault Refusal) : Option State :=
  match o with
  | .next t => some t
  | .fault _ => none
  | .refused _ => none

/-- Parameters with a capacity and a width. -/
def params (cap width : Nat) : Config := { Config.standard with cap := cap, width := width }

/-- An edge of a listing. -/
def ed (ts : Nat) (lvl : Nat) : Edge := { ts := BitVec.ofNat 32 ts, lvl := lvl == 1 }

/-- A state whose ring has taken the edges one after another. -/
def ring (c : Config) (es : List Edge) : State := pushAll { State.reset with cfg := c } es

/-- A state in phase ANALYZE with the edges as its snapshot. -/
def window (c : Config) (es : List Edge) : State :=
  { State.reset with cfg := c, phase := .analyze, snapMem := Memory.overlay [] es, snapLen := BitVec.ofNat 17 es.length }

/-- Vector V-EX1 of 95_test_vectors.md. -/
def ex1 : List Edge := [ed 0 1, ed 100000 0, ed 200000 1, ed 500000 0]

/-- Vector V-EX9 of 95_test_vectors.md: no transition at all. -/
def ex9 : List Edge := [ed 0 1, ed 100000 1, ed 200000 1, ed 300000 1]

/-- Vector X1's frame (95_test_vectors.md). -/
def fbX1 : FrameVec := 0x90282060900000

/-- The pulse list `PL_X1` of 95_test_vectors.md 2.6, with a first gap. -/
def plX1 (gap : Nat) : List Pulse :=
  { start := 0, dur := 100000 } :: (List.range 59).map fun k =>
    { start := BitVec.ofNat 32 (gap + k * 1000000), dur := if fbX1.getLsbD k then 200000 else 100000 }

/-- X1's record (95_test_vectors.md). -/
def recX1 : Record := { minute := 4, hour := 3, day := 2, weekday := 2, month := 1, year := 24 }

/-- A cycle that offers an edge. -/
def edgeCycle (e : Edge) : Bundle := { Bundle.idle with edgeValid := true, edgeTs := e.ts, edgeLvl := e.lvl, capEn := true }

/-! ## WellFormed -/

theorem test_config_standard_legal : Config.standard.Legal := by decide
theorem test_config_cap_zero_refused : ¬ (params 0 32).Legal := by decide
theorem test_config_cap_too_large_refused : ¬ (params 65537 32).Legal := by decide
theorem test_config_width_too_small_refused : ¬ (params 2048 21).Legal := by decide
theorem test_config_width_too_large_refused : ¬ (params 2048 33).Legal := by decide
theorem test_bundle_timestamp_refused :
    Bundle.wellFormed 22 { Bundle.idle with edgeTs := 0x400000 } = false
    ∧ Bundle.wellFormed 22 { Bundle.idle with edgeTs := 0x3FFFFF } = true := by decide
theorem test_edge_timestamp_refused :
    (Instr.edge 0x400000 true true).wellFormed 22 = false ∧ (Instr.edge 0x3FFFFF true true).wellFormed 22 = true := by decide
theorem test_nop_well_formed : Instr.nop.wellFormed 22 = true := by decide

/-! ## Decode: words written out from 30_encoding.md R70 to R76

A CTL word lies in six bytes, lowest first: CTL in bits 3..0, cap_en in bit 4, edge_lvl in bit 5, reg_addr in bits 11..6, edge_ts in
bits 43..12 (log 7). -/

theorem test_decode_reset : decode .ctl [0b00001000, 0, 0, 0, 0, 0] = .ok [.reset] := by decide +kernel
/-- `EDGE 0x000F4240, 1` with the capture enabled: 0xF4240 from bit 12 on. -/
theorem test_decode_edge : decode .ctl [0b00110001, 0x00, 0x24, 0xF4, 0x00, 0x00] = .ok [.edge 0xF4240 true true] := by
  decide +kernel
theorem test_decode_start : decode .ctl [0b00000010, 0, 0, 0, 0, 0] = .ok [.start] := by decide +kernel
/-- `READ 0x13`: 0b010011 in bits 11..6. -/
theorem test_decode_read : decode .ctl [0b11000100, 0b00000100, 0, 0, 0, 0] = .ok [.read 0x13 false] := by decide +kernel
theorem test_decode_nop : decode .ctl [0b00000000, 0, 0, 0, 0, 0] = .ok [.nop] := by decide +kernel
theorem test_decode_phases :
    decode .phase [0b01] = .ok [.snapClose] ∧ decode .phase [0b10] = .ok [.analyze]
    ∧ decode .phase [0b00] = .error .idlePhase ∧ decode .phase [0b11] = .error .reservedPhase := by decide +kernel
theorem test_decode_stages :
    decode .stage [0b00110] = .ok [.extract] ∧ decode .stage [0b01010] = .ok [.classify] ∧ decode .stage [0b01110] = .ok [.sync]
    ∧ decode .stage [0b10010] = .ok [.decode] ∧ decode .stage [0b10110] = .ok [.stats] ∧ decode .stage [0b11010] = .ok [.verdict]
    ∧ decode .stage [0b11110] = .ok [.commit] := by decide +kernel
/-- Program P4 cycle 3 and vector V-SN4 cycle 7: operations that share a cycle, and RESET over all of them. -/
theorem test_decode_shared_cycle :
    decode .ctl [0b00110011, 0x00, 0xD4, 0x30, 0x00, 0x00] = .ok [.edge 200000 true true, .start]
    ∧ decode .ctl [0b00010110, 0, 0, 0, 0, 0] = .ok [.read 0 true, .start]
    ∧ decode .ctl [0b00001111, 0, 0, 0, 0, 0] = .ok [.reset] := by decide +kernel
theorem test_decode_rejects :
    decode .ctl [0] = .error .wrongLength ∧ decode .ctl [0, 0, 0, 0, 0, 0x10] = .error .padding
    ∧ decode .phase [4] = .error .padding ∧ decode .stage [0b00101] = .error .notInAnalyze
    ∧ decode .stage [0b00010] = .error .noSuchStage ∧ decode .stage [32] = .error .padding := by decide +kernel
/-- The edge words of 95_test_vectors.md 2.2. -/
theorem test_edge_words :
    (ed 1000 0).word = 0x7D0 ∧ (ed 0xFFFFFFFF 1).word = 0x1FFFFFFFF ∧ (ed 0x3FFFF0 1).word = 0x7FFFE1
    ∧ (ed 0xF4240 0).word = 0x1E8480 := by decide +kernel

/-! ## The table's words run as the first operation after reset -/

theorem test_fetch_edge :
    (nextOf (step (State.reset.withFetchWord 8 0b0001))).map (fun t => (t.count, t.phase)) = some (0, .idle) := by decide +kernel
theorem test_fetch_start :
    (nextOf (step (State.reset.withFetchWord 8 0b0010))).map (fun t => (t.snapLen, t.phase)) = some (0, .snap) := by
  decide +kernel
theorem test_fetch_snap_close :
    (nextOf (step (State.reset.withFetchWord 2 0b01))).map (fun t => t.phase) = some .analyze := by decide +kernel
theorem test_fetch_analyze :
    (nextOf (step (State.reset.withFetchWord 2 0b10))).map (fun t => (t.phase, t.res.result)) =
      some (.idle, .insufficientEdges) := by decide +kernel

/-! ## Arithmetic: V-WD -/

theorem test_wrapdiff :
    wrapdiff 32 0x00001000 0xFFFFF000 = 8192 ∧ wrapdiff 32 0x7FFFFFFF 0 = 2147483647 ∧ wrapdiff 32 0x80000000 0 = -2147483648
    ∧ wrapdiff 32 0 0x80000000 = -2147483648 ∧ wrapdiff 32 5 5 = 0 ∧ wrapdiff 32 0 1 = -1 ∧ wrapdiff 22 0x10 0x3FFFF0 = 32
    ∧ wrapdiff 22 0x1FFFFF 0 = 2097151 ∧ wrapdiff 22 0x200000 0 = -2097152 := by decide +kernel

/-! ## One step per operation -/

/-- V-CAP2: 19999 after the last edge is debounced, 20000 is recorded. -/
theorem test_edge_debounce :
    (nextOf (exec (.edge 19999 false true) (ring (params 2048 32) [ed 0 1]))).map (fun t => t.count) = some 1
    ∧ (nextOf (exec (.edge 20000 false true) (ring (params 2048 32) [ed 0 1]))).map
        (fun t => (t.count, t.wptr, t.lastTs, t.capMem)) = some (2, 2, 20000, [(0, ed 0 1), (1, ed 20000 0)]) := by
  decide +kernel

/-- V-CAP10: the fifth edge into a ring of three. -/
theorem test_edge_ring_wraps :
    (nextOf (exec (.edge 400000 false true) (ring (params 3 32) [ed 0 0, ed 100000 1, ed 200000 0, ed 300000 1]))).map
        (fun t => (t.capMem, t.wptr, t.count)) =
      some ([(0, ed 300000 1), (1, ed 400000 0), (2, ed 200000 0)], 2, 3) := by decide +kernel

/-- V-CAP10: the snapshot of that ring. -/
theorem test_start_copies_in_order :
    (nextOf (exec .start (ring (params 3 32) [ed 0 0, ed 100000 1, ed 200000 0, ed 300000 1, ed 400000 0]))).map
        (fun t => (snapshot t, t.phase, t.count)) =
      some ([ed 200000 0, ed 300000 1, ed 400000 0], .snap, 3) := by decide +kernel

/-- Program P4 cycle 4: with the window open the edge is lost, the START ignored, and the window closes. -/
theorem test_cycle_in_window :
    (nextOf (step { ring (params 4 32) [ed 0 1] with
        phase := .snap, stim := [{ edgeCycle (ed 300000 0) with start := true }], draws := [⟨true, true⟩] })).map
        (fun t => (t.count, t.phase, t.out.busy)) = some (1, .analyze, true) := by decide +kernel

/-- X1's registers: FRAME0_A = 0x02020304 and FRAME0_B = 0x00001801. -/
theorem test_read_frame :
    (nextOf (exec (.read 0x0E true) { State.reset with res := { Results.zero with sample0 := recX1 } })).map
        (fun t => t.out.regRdata) = some 0x02020304
    ∧ (nextOf (exec (.read 0x0F true) { State.reset with res := { Results.zero with sample0 := recX1 } })).map
        (fun t => t.out.regRdata) = some 0x00001801 := by decide +kernel

/-- V-SN4 cycle 10: STATUS in the second window, read with the capture enabled. -/
theorem test_read_status :
    (nextOf (exec (.read 0x00 true)
        { State.reset with phase := .snap, res := { Results.zero with result := .ok, verdict := .uncertain } })).map
        (fun t => t.out.regRdata) = some 0x137 := by decide +kernel

theorem test_nop_drives_zero :
    (nextOf (exec .nop { State.reset with out := ⟨5, true⟩ })).map (fun t => t.out) = some ⟨0, true⟩ := by decide +kernel

/-- Program P4 cycle 23: RESET keeps CAPMEM and last_ts. -/
theorem test_reset_keeps_ram :
    (nextOf (exec .reset { ring (params 4 32) [ed 200000 1] with phase := .analyze })).map
        (fun t => (t.count, t.lastValid, t.phase, t.capMem.read 0, t.lastTs)) =
      some (0, false, .idle, some (ed 200000 1), 200000) := by decide +kernel

theorem test_snap_close :
    (nextOf (exec .snapClose { State.reset with phase := .snap })).map (fun t => t.phase) = some .analyze := by decide +kernel

/-- V-EX3: one pulse of 150 ms, likely noise. -/
theorem test_analyze_noise :
    (nextOf (exec .analyze (window Config.standard [ed 0 1, ed 100000 0, ed 150000 0, ed 250000 1]))).map
        (fun t => (t.res.result, t.res.verdict, t.res.span, t.res.pulseCount, t.res.other, t.res.durSum)) =
      some (.ok, .likelyNoise, 250000, 1, 1, 150000) := by decide +kernel

/-- V-EX8 and V-EX9: the two skips. -/
theorem test_analyze_skips :
    (nextOf (exec .analyze (window Config.standard [ed 0 1, ed 100000 0, ed 200000 1]))).map (fun t => (t.res, t.phase)) =
      some ({ Results.zero with result := .insufficientEdges, snapLen := 3 }, .idle)
    ∧ (nextOf (exec .analyze (window Config.standard ex9))).map (fun t => (t.res, t.phase)) =
      some ({ Results.zero with result := .noClosedPulses, snapLen := 4 }, .idle) := by decide +kernel

/-- V-EX7: a pulse across the wrap. -/
theorem test_extract_wrap :
    (nextOf (exec .extract (window Config.standard [ed 0xFFF0BDC0 1, ed 0xFFFF3CB0 0, ed 0x0000C350 1, ed 0x000F4240 0]))).map
        (fun t => (t.work.pulses, t.work.rising)) =
      some ([{ start := 0xFFFF3CB0, dur := 100000 }], [0x0000C350]) := by decide +kernel

/-- V-EX4, and V-EX5's pulse of negative length, with every high edge counted as rising. -/
theorem test_extract_level_high :
    (nextOf (exec .extract (window { Config.standard with risingDef := .levelHigh }
        [ed 0 1, ed 100000 1, ed 200000 0, ed 300000 1]))).map (fun t => (t.work.pulses, t.work.rising)) =
      some ([{ start := 200000, dur := 100000 }], [0, 100000, 300000])
    ∧ extractPulses 32 [ed 0xFFF00000 1, ed 0 0, ed 0x70000000 0, ed 0xE0000000 1] = [] := by decide +kernel

/-- 30_encoding.md R86: a WAIT in the commit cycle reads BUSY = 1, and ends with the next read. -/
theorem test_wait_ends_with_busy_clear :
    let s := { window Config.standard ex1 with draws := [⟨true, true⟩] }
    (runScript 1 true [.wait] s).isNone = true
    ∧ (runScript 2 true [.wait] s).map (fun t => (t.phase, t.out.regRdata)) = some (.idle, 0x134) := by decide +kernel

/-- V-CL, every boundary. -/
theorem test_classify_boundaries :
    (nextOf (exec .classify { State.reset with
        phase := .analyze
        work := { Work.empty with
          pulses := [1, 59999, 60000, 140000, 140001, 159999, 160000, 260000, 260001].map fun d => { start := 0, dur := d } } })).map
        (fun t => t.work.classes) =
      some [.invalid, .invalid, .zero, .zero, .invalid, .invalid, .one, .one, .invalid] := by decide +kernel

/-- V-FS1b and V-FS1a: a first gap of 1200000 is a marker, one of 1199999 is none. -/
theorem test_sync_marker_boundary :
    (nextOf (exec .sync { State.reset with
        phase := .analyze
        work := { Work.empty with pulses := plX1 1200000, classes := classifyAll (plX1 1200000) } })).map
        (fun t => t.work.cands) = some [fbX1]
    ∧ syncPulses 32 (plX1 1199999) = [] := by decide +kernel

/-- V-FS2b and V-FS3a: 59 pulses, and an Invalid class in the window. -/
theorem test_sync_no_candidate :
    syncPulses 32 ((plX1 2000000).take 59) = []
    ∧ syncPulses 32 ((plX1 2000000).set 31 { start := 32000000, dur := 150000 }) = []
    ∧ syncPulses 32 ((plX1 2000000).set 0 { start := 0, dur := 150000 }) = [fbX1] := by decide +kernel

/-- V-FD1, V-FD2, V-FD4 and V-FD10: accepted frames in order, rejected ones dropped. -/
theorem test_decode_frames :
    (nextOf (exec .decode { State.reset with
        phase := .analyze
        work := { Work.empty with cands := [fbX1, flipBit fbX1 0, flipBit fbX1 29, 0x3FFFFEFDFF00000] } })).map
        (fun t => t.work.decoded) =
      some [recX1, { minute := 165, hour := 84, day := 44, weekday := 7, month := 25, year := 165 }] := by decide +kernel

/-- V-FD3, V-FD5, V-FD6, V-FD7 and V-FD9. -/
theorem test_decode_flips :
    decodeFrame (flipBit fbX1 28) = none ∧ decodeFrame (flipBit fbX1 35) = none ∧ decodeFrame (flipBit fbX1 36) = none
    ∧ decodeFrame (flipBit fbX1 57) = some { recX1 with year := 104 }
    ∧ decodeFrame (flipBit (flipBit fbX1 25) 26) = some { recX1 with minute := 34 } := by decide +kernel

/-- V-ST1: the gap boundaries. -/
theorem test_stats_gaps :
    (nextOf (exec .stats { State.reset with
        phase := .analyze
        work := { Work.empty with rising := [0, 899999, 1799999, 2899999, 4000000, 5199999, 6399999] } })).map
        (fun t => (t.work.stats.secLike, t.work.stats.markerLike)) = some (2, 1) := by decide +kernel

/-- V-SC8, V-SC10 and V-SC11: the three verdicts. -/
theorem test_verdicts :
    let v := fun (sec mark sl other n frames : Nat) =>
      (nextOf (exec .verdict { State.reset with
        phase := .analyze
        work := { Work.empty with
          stats := { Stats.zero with
            secLike := sec, markerLike := mark, short := sl, other := other, pulseCount := n, frames := frames } } })).map
        (fun t => t.work.verdict)
    v 2 0 4 6 10 0 = some .likelyNoise ∧ v 10 1 7 3 10 1 = some .likelySignal ∧ v 0 0 1 1 2 0 = some .uncertain := by
  decide +kernel

/-- V-ST3: a 64-bit sum, read in two halves, and an aliased span. -/
theorem test_commit_wide_sum :
    (nextOf (exec .commit { State.reset with
        phase := .analyze
        work := { Work.empty with stats := { Stats.zero with durSum := 4294987305, span := 320009 } } })).map
        (fun t => (readReg t 0x09 true, readReg t 0x0A true, readReg t 0x04 true, t.phase)) =
      some (0x00004E29, 0x00000001, 0x0004E209, .idle) := by decide +kernel

/-- 45_signal_classify.md R227: the first three records of four. -/
theorem test_commit_samples :
    (nextOf (exec .commit { State.reset with
        phase := .analyze
        work := { Work.empty with decoded := [recX1, Record.zero, recX1, recX1], stats := { Stats.zero with frames := 4 } } })).map
        (fun t => (t.res.nsamples, t.res.sample0, t.res.sample1, t.res.sample2, t.res.frames)) =
      some (3, recX1, Record.zero, recX1, 4) := by decide +kernel

/-! ## Witnesses: for every statement with hypotheses, a state and operands that meet all of them -/

/-- A state in a phase whose next cycle has a bundle, an edge in its ring and an edge in its snapshot. -/
def staged (p : Phase) (b : Bundle) : State :=
  { ring (params 3 32) [ed 7 1] with
    phase := p, stim := [b], draws := [⟨true, true⟩], snapMem := [(0, ed 7 1)], snapLen := 1 }

/-- A full ring of three that has wrapped (vector V-CAP10), its snapshot, and V-EX1's results. -/
def full (p : Phase) : State :=
  { ring (params 3 32) [ed 0 0, ed 100000 1, ed 200000 0, ed 300000 1, ed 400000 0] with
    phase := p
    snapMem := [(0, ed 200000 0), (1, ed 300000 1), (2, ed 400000 0)]
    snapLen := 3
    stim := [{ edgeCycle (ed 420000 1) with start := true }]
    draws := [⟨true, true⟩]
    res := { Results.zero with result := .insufficientEdges, snapLen := 3 } }

theorem full_capture (p : Phase) : CaptureInv (full p) := by cases p <;> constructor <;> decide +kernel

theorem full_snap (p : Phase) : SnapInv (full p) := by cases p <;> constructor <;> decide +kernel

theorem full_result (p : Phase) : ResultInv (full p).cfg (full p).res := by cases p <;> constructor <;> decide +kernel

/-- V-EX1 as a snapshot. -/
theorem ex1_snap : SnapInv (window Config.standard ex1) := by constructor <;> decide +kernel

theorem witness_StepRunsTheDecodedOperations :
    (staged .idle { Bundle.idle with rst := true }).stim = { Bundle.idle with rst := true } :: []
    ∧ (staged .idle Bundle.idle).stim = Bundle.idle :: [] ∧ Bundle.idle.rst = false ∧ (staged .idle Bundle.idle).phase = .idle
    ∧ (staged .snap Bundle.idle).phase = .snap ∧ (nextDraw (staged .snap Bundle.idle)).close = true
    ∧ (staged .analyze Bundle.idle).phase = .analyze ∧ (nextDraw (staged .analyze Bundle.idle)).commit = true
    ∧ Bundle.idle.ops = [.nop] := by decide +kernel

theorem witness_NothingStopsTheBlock :
    (staged .idle Bundle.idle).phase ≠ .reserved
    ∧ (nextBundle (staged .reserved { Bundle.idle with rst := true })).rst = true
    ∧ (staged .reserved Bundle.idle).phase = .reserved ∧ (nextBundle (staged .reserved Bundle.idle)).rst = false
    ∧ (full .analyze).phase ≠ .snap ∧ (full .snap).phase ≠ .analyze := by decide +kernel

/-- Each reason to drop an edge, and the first timestamp that is recorded. -/
theorem witness_EdgeOperation :
    let s := ring (params 3 32) [ed 0 1]
    (s.lastValid = true ∧ wrapdiff s.cfg.width (zextTs s.cfg.width 19999) s.lastTs < 20000)
    ∧ ¬ (true = false ∨ s.phase = .snap
        ∨ (s.lastValid = true ∧ wrapdiff s.cfg.width (zextTs s.cfg.width 20000) s.lastTs < 20000))
    ∧ (staged .snap Bundle.idle).phase = .snap := by decide +kernel

theorem witness_EdgeFrame :
    exec (.edge 30000 false true) (staged .idle Bundle.idle) = .next (append (staged .idle Bundle.idle) (ed 30000 0))
    ∧ exec (.edge 30000 false true) (staged .snap Bundle.idle) = .next (staged .snap Bundle.idle) := ⟨rfl, rfl⟩

theorem witness_RingKeepsTheMostRecentEdges : CaptureInv (full .idle) ∧ (captured (full .idle)).length = (full .idle).cfg.cap :=
  ⟨full_capture _, by decide +kernel⟩

theorem witness_SnapshotListsTheMostRecentEdges :
    CaptureInv { State.reset with cfg := params 3 32 } ∧ ({ State.reset with cfg := params 3 32 } : State).count = 0 := by
  refine ⟨?_, rfl⟩
  constructor <;> decide +kernel

theorem witness_StartCopiesTheRing :
    (full .idle).phase = .idle ∧ 2 < (full .idle).count.toNat ∧ (full .idle).count.toNat ≤ 3 ∧ (full .snap).phase ≠ .idle := by
  decide +kernel

theorem witness_SnapCloseOpensTheAnalysis : (full .snap).phase = .snap := rfl

theorem witness_EdgeInTheStartCycleIsInTheSnapshot :
    let b := { edgeCycle (ed 420000 1) with start := true }
    (full .idle).stim = b :: [] ∧ (full .idle).phase = .idle ∧ b.rst = false ∧ b.start = true ∧ b.edgeValid = true
    ∧ b.capEn = true ∧ debounced (full .idle) (zextTs (full .idle).cfg.width b.edgeTs) = false := by decide +kernel

theorem witness_OpenWindowDropsEdges :
    (full .snap).phase = .snap ∧ (nextBundle (full .snap)).rst = false ∧ (nextBundle (full .snap)).edgeValid = true
    ∧ ∃ t, step (full .snap) = .next t := ⟨rfl, rfl, rfl, _, rfl⟩

theorem witness_UnsetLastTimestampIsNeverRead : State.reset.lastValid = false := rfl

/-- True differences at the two ends of the range, and just past them. -/
theorem witness_WrapdiffIsTheTrueDifferenceInRange :
    Config.standard.Legal
    ∧ wrapdiff 32 (tsAt 32 2147483647) (tsAt 32 0) = 2147483647 ∧ wrapdiff 32 (tsAt 32 2147483648) (tsAt 32 0) ≠ 2147483648
    ∧ wrapdiff 32 (tsAt 32 (-2147483648)) (tsAt 32 0) = -2147483648
    ∧ wrapdiff 32 (tsAt 32 (-2147483649)) (tsAt 32 0) ≠ -2147483649 := by decide +kernel

/-- Vector V-EX3 has a `0,0` pair inside its pulse, V-EX2 begins low, and V-EX1 has as many pulses as fit. -/
theorem witness_PulseListBounds :
    (params 1 22).Legal
    ∧ ClosedLow [ed 0 1, ed 100000 0, ed 150000 0, ed 250000 1] 1 3
    ∧ ClosedLow [ed 0 0, ed 100000 1, ed 200000 0, ed 300000 1] 2 3
    ∧ ¬ ClosedLow [ed 0 0, ed 100000 1, ed 200000 0, ed 300000 1] 0 1
    ∧ (extractPulses 22 ex1).length = (ex1.length - 1) / 2 := by decide +kernel

theorem witness_ExtractionRecoversDurations :
    (params 1 22).Legal ∧ ∀ p ∈ [(0, 1), (900000, 2097151)], 1 ≤ p.2 ∧ p.2 ≤ 2 ^ ((params 1 22).width - 1) - 1 := by
  decide +kernel

/-- A snapshot that ends low, and one that ends high. -/
theorem witness_ExtractionRecoversDurations_last :
    (([] : List Edge) = [] ∨ ∃ ts, ([] : List Edge) = [{ ts := ts, lvl := false }])
    ∧ ([ed 5 0] = [] ∨ ∃ ts, [ed 5 0] = [{ ts := ts, lvl := false }]) := ⟨.inl rfl, .inr ⟨5, rfl⟩⟩

/-- A marker whose window just fits, and a list one pulse short. -/
theorem witness_CandidatesAreTheValidWindowsAfterMarkers :
    fbX1 ∈ syncPulses 32 (plX1 1200000) ∧ (plX1 1200000).length = 60 ∧ ((plX1 1200000).take 59).length < 60 := by
  decide +kernel

theorem witness_FrameDecodesAllOrNothing : decodeFrame fbX1 = some recX1 ∧ decodeFrame (flipBit fbX1 0) = none := by
  decide +kernel

/-- Both ends of each range of bits. -/
theorem witness_SingleBitFlips :
    decodeFrame fbX1 = some recX1
    ∧ decodeFrame (flipBit fbX1 20) = none ∧ decodeFrame (flipBit fbX1 36) = none
    ∧ decodeFrame (flipBit fbX1 1) = some recX1 ∧ decodeFrame (flipBit fbX1 19) = some recX1
    ∧ decodeFrame (flipBit fbX1 58) = some recX1
    ∧ decodeFrame (flipBit fbX1 37) = some { recX1 with day := 0 } := by decide +kernel

theorem witness_WindowStatistics :
    ex1.head? = some (ed 0 1) ∧ ex1.getLast? = some (ed 500000 0) ∧ Config.standard.markerGaps = .rising
    ∧ ({ Config.standard with markerGaps := .pulseStart } : Config).markerGaps = .pulseStart := by decide +kernel

theorem witness_VerdictIsTheRationalVerdict : 1 ≤ ({ Stats.zero with pulseCount := 1, other := 1 } : Stats).pulseCount := by decide

/-- Vector V-SC8. -/
theorem witness_VerdictBoundaries :
    let st := { Stats.zero with pulseCount := 10, short := 2, long := 2, other := 6, secLike := 2 }
    (59 / 100 : Rat) < 3 / 5 ∧ (3 / 10 : Rat) < 31 / 100 ∧ 1 ≤ st.pulseCount
    ∧ st.short + st.long + st.other = st.pulseCount ∧ st.secLike < 3
    ∧ 1 / 2 < (st.other : Rat) / (st.pulseCount : Rat) := by decide +kernel

/-- The premise of the seven statements about stages, and of AnalyzeCommitsTheWindowResult. -/
theorem witness_StageEffects : (window Config.standard ex1).phase = .analyze := rfl

theorem witness_SyncStageEffect :
    let s := { window Config.standard ex1 with
      work := { Work.empty with pulses := plX1 1200000, classes := classifyAll (plX1 1200000) } }
    s.phase = .analyze ∧ s.work.classes = classifyAll s.work.pulses := by decide +kernel

theorem witness_FewEdgesCommitASkip : (full .analyze).phase = .analyze ∧ (full .analyze).snapLen.toNat = 3 := by decide +kernel

theorem witness_NoPulsesCommitASkip :
    let s := window Config.standard ex9
    s.phase = .analyze ∧ s.snapLen.toNat = 4 ∧ extractPulses s.cfg.width (snapshot s) = [] := by decide +kernel

/-- The second state has other slots, a ring, and other scratch values. -/
theorem witness_AnalysisReadsOnlyTheSnapshot :
    let s := window Config.standard ex1
    let s' := { s with snapMem := Memory.overlay [(4, ed 9 1)] ex1, capMem := [(0, ed 9 1)], count := 1, wptr := 1 }
    s.phase = .analyze ∧ s'.phase = .analyze ∧ s'.cfg = s.cfg ∧ s'.snapLen = s.snapLen
    ∧ (∀ j, j < s.snapLen.toNat → snapRead s' j = snapRead s j) ∧ s'.snapMem.read 4 ≠ s.snapMem.read 4
    ∧ exec .analyze s = .next (after .analyze s) ∧ exec .analyze s' = .next (after .analyze s') := by
  refine ⟨rfl, rfl, rfl, rfl, by decide +kernel, by decide +kernel, exec_eq _ _, exec_eq _ _⟩

theorem witness_ResultRegistersHoldExactValues :
    let s := window Config.standard ex1
    s.cfg.Legal ∧ SnapInv s ∧ s.snapLen.toNat = 4 ∧ extractPulses s.cfg.width (snapshot s) ≠ [] :=
  ⟨by decide, ex1_snap, by decide +kernel, by decide +kernel⟩

theorem witness_RegisterMap : 0x14 ≤ (0x14 : RegAddr).toNat ∧ 0x14 ≤ (0x3F : RegAddr).toNat := by decide

theorem witness_ReportOfTheRegisters :
    ({ Results.zero with pulseCount := 1, span := 500000 } : Results).pulseCount ≠ 0
    ∧ 0 < ({ Results.zero with pulseCount := 1, span := 500000 } : Results).span.toInt := by decide +kernel

theorem witness_ResetOverridesTheCycle :
    (nextBundle (staged .analyze { edgeCycle (ed 420000 1) with rst := true, start := true, regRd := true })).rst = true := rfl

/-- A cycle that reads, and one that does not. -/
theorem witness_OutputsShowTheStartOfTheCycle :
    (nextBundle (staged .snap { Bundle.idle with regRd := true })).regRd = true
    ∧ (∃ t, step (staged .snap { Bundle.idle with regRd := true }) = .next t) ∧ ∃ t, step (full .idle) = .next t :=
  ⟨rfl, ⟨_, rfl⟩, _, rfl⟩

theorem witness_ReadsHaveNoSideEffect :
    (full .idle).stim = { edgeCycle (ed 420000 1) with start := true } :: [] ∧ ∃ t, step (full .idle) = .next t :=
  ⟨rfl, _, rfl⟩

/-- A cycle from each of the three phases. -/
theorem witness_PhaseOrder :
    (∃ t, step (full .idle) = .next t) ∧ (∃ t, step (full .snap) = .next t) ∧ ∃ t, step (full .analyze) = .next t :=
  ⟨⟨_, rfl⟩, ⟨_, rfl⟩, _, rfl⟩

/-- The commit, and a reset, change the registers. -/
theorem witness_ResultsChangeOnlyAtCommitOrReset :
    (nextOf (step { window Config.standard ex1 with draws := [⟨true, true⟩] })).map (fun t => decide (t.res ≠ Results.zero)) =
      some true
    ∧ (nextOf (step { full .idle with stim := [{ Bundle.idle with rst := true }] })).map
      (fun t => decide (t.res ≠ (full .idle).res)) = some true := by decide +kernel

theorem witness_ViewsAreDisjoint :
    exec .start (full .idle) = .next (openSnapshot (full .idle)) ∧ Instr.start ≠ .reset
    ∧ exec (.edge 420000 true true) (full .idle) = .next (append (full .idle) (ed 420000 1)) := ⟨rfl, by decide, rfl⟩

theorem witness_OnlyEdgeAndStartStore : exec .reset (full .snap) = .next (after .reset (full .snap)) := exec_eq _ _

/-- Every invariant, and a cycle, from each of the three phases. -/
theorem witness_StepKeepsInvariants :
    (∀ p, CaptureInv (full p) ∧ SnapInv (full p) ∧ ResultInv (full p).cfg (full p).res)
    ∧ BoundaryInv (full .idle) ∧ BoundaryInv (full .snap) ∧ BoundaryInv (full .analyze)
    ∧ (∃ t, step (full .idle) = .next t) ∧ (∃ t, step (full .snap) = .next t) ∧ ∃ t, step (full .analyze) = .next t :=
  ⟨fun p => ⟨full_capture p, full_snap p, full_result p⟩, ⟨by decide, rfl⟩, ⟨by decide, rfl⟩, ⟨by decide, rfl⟩,
    ⟨_, rfl⟩, ⟨_, rfl⟩, _, rfl⟩

/-- A window of two cycles and an analysis of one. -/
theorem witness_AcceptedStartCommitsItsSnapshot :
    let s := { full .idle with draws := [⟨true, true⟩, ⟨false, true⟩, ⟨true, false⟩, ⟨false, true⟩] }
    s.phase = .idle ∧ (nextBundle s).start = true ∧ (∀ b ∈ s.stim.take (2 + 1 + 1), b.rst = false)
    ∧ 2 + 1 + 1 ≤ s.draws.length
    ∧ (∀ k d, s.draws[k]? = some d → 1 ≤ k → k ≤ 2 → d.close = decide (k = 2))
    ∧ (∀ k d, s.draws[k]? = some d → 2 < k → k ≤ 2 + 1 → d.commit = decide (k = 2 + 1)) := by
  refine ⟨rfl, rfl, by decide +kernel, by decide, fun k d h h1 h2 => ?_, fun k d h h1 h2 => ?_⟩
  · obtain rfl | rfl : k = 1 ∨ k = 2 := by omega
    · cases h; rfl
    · cases h; rfl
  · obtain rfl : k = 3 := by omega
    cases h; rfl

theorem witness_DrawsThatFireEndTheAnalysis :
    let s := { full .snap with draws := [⟨false, true⟩, ⟨true, true⟩, ⟨true, true⟩] }
    (s.phase = .snap ∨ s.phase = .analyze) ∧ (∀ b ∈ s.stim, b.rst = false) ∧ s.draws[1]? = some ⟨true, true⟩
    ∧ s.draws[2]? = some ⟨true, true⟩ := by decide +kernel

/-- The same from phase ANALYZE, in its first two cycles. -/
theorem witness_DrawsThatFireEndTheAnalysis_analyze :
    let s := { full .analyze with draws := [⟨true, false⟩, ⟨false, true⟩] }
    s.phase = .analyze ∧ (∀ b ∈ s.stim, b.rst = false) ∧ s.draws[0]? = some ⟨true, false⟩
    ∧ s.draws[1]? = some ⟨false, true⟩ := by decide +kernel

/-- A joined line with RESET, a line of NOP, a read of STATUS in IDLE and one while busy, and the draws of a RUN. -/
theorem witness_ScriptsAssemble :
    let stmts := [Stmt.edge 5 true, .start, .read 3, .reset]
    let s := { full .idle with draws := [⟨true, true⟩, ⟨true, false⟩, ⟨false, true⟩] }
    .reset ∈ stmts ∧ Stmt.edge 5 true ∈ stmts ∧ .read 3 ∈ stmts ∧ (∀ x ∈ [Stmt.nop], x = .nop)
    ∧ (∃ t, step (placeBundle (full .idle) (lineBundle true [.read 0x00])) = .next t)
    ∧ (∃ t, step (placeBundle (full .snap) (lineBundle true [.read 0x00])) = .next t) ∧ (full .snap).phase ≠ .idle
    ∧ s.phase = .idle ∧ 1 + 1 + 1 ≤ s.draws.length
    ∧ (∀ k d, s.draws[k]? = some d → 1 ≤ k → k ≤ 1 → d.close = decide (k = 1))
    ∧ (∀ k d, s.draws[k]? = some d → 1 < k → k ≤ 1 + 1 → d.commit = decide (k = 1 + 1)) := by
  refine ⟨by decide, by decide, by decide, by decide, ⟨_, rfl⟩, ⟨_, rfl⟩, by decide, rfl, by decide, fun k d h h1 h2 => ?_,
    fun k d h h1 h2 => ?_⟩
  · obtain rfl : k = 1 := by omega
    cases h; rfl
  · obtain rfl : k = 2 := by omega
    cases h; rfl

end Sys2Proof.Tests
end

section
/-! PROOFS. What a cycle can run, and which part of the state each operation leaves as it is: the layer the state's invariants
(10_state.md) are proved on. -/

namespace Sys2Proof.Machine

open Sys2Proof

/-! ## The operations of a cycle -/

/-- The operations a cycle can hold (40_capture.md R100): no stage of ANALYZE runs on its own. -/
inductive CycleOp : Instr → Prop where
  | reset : CycleOp .reset
  | edge (ts : Ts) (lvl capEn : Bool) : CycleOp (.edge ts lvl capEn)
  | start : CycleOp .start
  | read (a : RegAddr) (capEn : Bool) : CycleOp (.read a capEn)
  | nop : CycleOp .nop
  | snapClose : CycleOp .snapClose
  | analyze : CycleOp .analyze

theorem cycleOp_of_mem_ops {b : Bundle} {i : Instr} (h : i ∈ b.ops) : CycleOp i := by
  have hi := (List.mem_filter.1 h).1
  simp only [List.mem_cons, List.not_mem_nil, or_false] at hi
  rcases hi with rfl | rfl | rfl | rfl | rfl <;> constructor

theorem cycleOp_of_mem_internalOps {p : Phase} {d : Draw} {i : Instr} (h : i ∈ internalOps p d) : CycleOp i := by
  cases p with
  | idle | reserved => simp at h
  | snap =>
    obtain ⟨-, rfl⟩ : d.close = true ∧ i = .snapClose := by simpa using h
    exact .snapClose
  | analyze =>
    obtain ⟨-, rfl⟩ : d.commit = true ∧ i = .analyze := by simpa using h
    exact .analyze

theorem cycleOp_of_mem_cycleOps {s : State} {i : Instr} (h : i ∈ cycleOps s) : CycleOp i := by
  unfold cycleOps at h
  split at h
  · exact cycleOp_of_mem_ops h
  · exact (List.mem_append.1 h).elim cycleOp_of_mem_ops cycleOp_of_mem_internalOps

/-- `step_keeps` for what only the operations of a cycle keep, and a stage on its own need not. -/
theorem step_keeps_of_cycleOp {P : State → Prop} (hb : ∀ s, P s → P (beginCycle s))
    (ho : ∀ i s, CycleOp i → P s → P (after i s)) {s t : State} (hs : P s) (h : step s = .next t) : P t := by
  rw [(step_next h).2]
  exact List.foldlRecOn _ _ (hb s hs) fun u hu i hi => ho i u (cycleOp_of_mem_cycleOps hi) hu

/-! ## Frames -/

/-- The two states have the same parameters and capture state (10_state.md R21 to R24). -/
structure SameCapture (s t : State) : Prop where
  cfg : t.cfg = s.cfg
  capMem : t.capMem = s.capMem
  wptr : t.wptr = s.wptr
  count : t.count = s.count
  lastTs : t.lastTs = s.lastTs
  lastValid : t.lastValid = s.lastValid

/-- The two states have the same parameters and snapshot (10_state.md R31). -/
structure SameSnapshot (s t : State) : Prop where
  cfg : t.cfg = s.cfg
  snapMem : t.snapMem = s.snapMem
  snapLen : t.snapLen = s.snapLen

theorem SameCapture.refl (s : State) : SameCapture s s := ⟨rfl, rfl, rfl, rfl, rfl, rfl⟩

theorem SameSnapshot.refl (s : State) : SameSnapshot s s := ⟨rfl, rfl, rfl⟩

theorem beginCycle_sameCapture (s : State) : SameCapture s (beginCycle s) := ⟨rfl, rfl, rfl, rfl, rfl, rfl⟩

theorem beginCycle_sameSnapshot (s : State) : SameSnapshot s (beginCycle s) := ⟨rfl, rfl, rfl⟩

/-- No operation changes the parameters (70_reset_and_hazards.md R284). -/
@[simp] theorem after_cfg (i : Instr) (s : State) : (after i s).cfg = s.cfg := by
  cases i <;> simp only [after] <;> split <;> simp

/-- Only EDGE and RESET write the capture state (60_exceptions.md R272). -/
theorem after_sameCapture {i : Instr} (hr : i ≠ .reset) (he : ∀ ts lvl en, i ≠ .edge ts lvl en) (s : State) :
    SameCapture s (after i s) := by
  cases i with
  | reset => exact absurd rfl hr
  | edge ts lvl en => exact absurd rfl (he ts lvl en)
  | read a en => exact ⟨rfl, rfl, rfl, rfl, rfl, rfl⟩
  | nop => exact ⟨rfl, rfl, rfl, rfl, rfl, rfl⟩
  | _ =>
    simp only [after]
    split
    · constructor <;> simp
    · exact .refl s

/-- Only START and RESET write the snapshot (20_memory.md R50, 40_capture.md R111). -/
theorem after_sameSnapshot {i : Instr} (hr : i ≠ .reset) (hs : i ≠ .start) (s : State) : SameSnapshot s (after i s) := by
  cases i with
  | reset => exact absurd rfl hr
  | start => exact absurd rfl hs
  | read a en => exact ⟨rfl, rfl, rfl⟩
  | nop => exact ⟨rfl, rfl, rfl⟩
  | _ =>
    simp only [after]
    split
    · constructor <;> simp
    · constructor <;> simp

/-- Only RESET, ANALYZE and COMMIT write the result registers (46_host_access.md R250). -/
theorem after_res {i : Instr} (hr : i ≠ .reset) (ha : i ≠ .analyze) (hc : i ≠ .commit) (s : State) :
    (after i s).res = s.res := by
  cases i with
  | reset => exact absurd rfl hr
  | analyze => exact absurd rfl ha
  | commit => exact absurd rfl hc
  | read a en => rfl
  | nop => rfl
  | _ =>
    simp only [after]
    split <;> simp

end Sys2Proof.Machine
end

section
/-! PROOFS. The ring (10_state.md R21 to R26): where its slots lie, what an append makes of its list, and the
capture invariant. -/

namespace Sys2Proof.Machine

open Sys2Proof

/-! ## Gaps and spacing -/

theorem gaps_drop (w : Nat) (ts : List Ts) (k : Nat) : gaps w (ts.drop k) = (gaps w ts).drop k := by
  induction ts generalizing k with
  | nil => simp [gaps]
  | cons a ts ih =>
    cases k with
    | zero => rfl
    | succ k =>
      rw [List.drop_succ_cons, ih]
      cases ts <;> simp [gaps]

/-- The one new gap of a list with a timestamp added at its end is the last one. -/
theorem mem_gaps_concat {w : Nat} {ts : List Ts} {b : Ts} {d : Int} (h : d ∈ gaps w (ts ++ [b])) :
    d ∈ gaps w ts ∨ ∃ a, ts.getLast? = some a ∧ d = wrapdiff w b a := by
  induction ts with
  | nil => simp [gaps] at h
  | cons a ts ih =>
    cases ts with
    | nil => exact .inr ⟨a, rfl, by simpa [gaps] using h⟩
    | cons c ts =>
      simp only [List.cons_append, gaps, List.mem_cons] at h ⊢
      rcases h with rfl | h
      · exact .inl (.inl rfl)
      · rcases ih h with h | ⟨x, hx, hd⟩
        · exact .inl (.inr h)
        · exact .inr ⟨x, by simpa using hx, hd⟩

theorem Spaced.drop {w : Nat} {es : List Edge} (h : Spaced w es) (k : Nat) : Spaced w (es.drop k) := by
  intro d hd
  rw [List.map_drop, gaps_drop] at hd
  exact h d (List.mem_of_mem_drop hd)

theorem Spaced.concat {w : Nat} {es : List Edge} {e : Edge} (h : Spaced w es)
    (hlast : ∀ a, es.getLast?.map (fun x => x.ts) = some a → tDeb ≤ wrapdiff w e.ts a) : Spaced w (es ++ [e]) := by
  intro d hd
  rw [List.map_append] at hd
  rcases mem_gaps_concat hd with hd | ⟨a, ha, rfl⟩
  · exact h d hd
  · exact hlast a (by rwa [List.getLast?_map] at ha)

/-! ## What the capture invariant speaks of -/

theorem ringSlot_congr {s t : State} (h : SameCapture s t) (j : Nat) : ringSlot t j = ringSlot s j := by
  simp only [ringSlot, h.cfg, h.wptr, h.count]

theorem SameCapture.captured_eq {s t : State} (h : SameCapture s t) : captured t = captured s :=
  captured_congr h.cfg h.capMem h.wptr h.count

theorem CaptureInv.congr {s t : State} (hi : CaptureInv s) (h : SameCapture s t) : CaptureInv t where
  legal := by rw [h.cfg]; exact hi.legal
  memWf := by rw [h.capMem]; exact hi.memWf
  slots := by rw [h.capMem, h.cfg]; exact hi.slots
  wptrLt := by rw [h.wptr, h.cfg]; exact hi.wptrLt
  countLe := by rw [h.count, h.cfg]; exact hi.countLe
  wptrEq := by rw [h.count, h.wptr, h.cfg]; exact hi.wptrEq
  written := by
    intro j hj
    rw [h.capMem, ringSlot_congr h]
    exact hi.written j (by rwa [h.count] at hj)
  valid := by rw [h.lastValid, h.count]; exact hi.valid
  newest := by rw [h.lastValid, h.lastTs, h.captured_eq]; exact hi.newest
  spaced := by rw [h.cfg, h.captured_eq]; exact hi.spaced

/-- A valid slot was written, so it reads as an edge the RAM lists. -/
theorem CaptureInv.mem_capMem_of_lt {s : State} (hi : CaptureInv s) {j : Nat} (hj : j < s.count.toNat) :
    (ringSlot s j, capRead s (ringSlot s j)) ∈ s.capMem := by
  obtain ⟨e, he⟩ := Option.isSome_iff_exists.1 (hi.written j hj)
  simp only [capRead, he]
  exact Memory.mem_of_read he

theorem CaptureInv.fits_of_mem_captured {s : State} (hi : CaptureInv s) {e : Edge} (he : e ∈ captured s) :
    Ts.fits s.cfg.width e.ts := by
  obtain ⟨j, hj, rfl⟩ := List.mem_map.1 he
  exact (hi.slots _ (hi.mem_capMem_of_lt (List.mem_range.1 hj))).2

/-! ## The ring's slots -/

/-- `ringSlot` without the modulus, up to the write pointer. -/
theorem CaptureInv.ringSlot_eq {s : State} (hi : CaptureInv s) {j : Nat} (hj : j ≤ s.count.toNat) :
    ringSlot s j =
      if s.count.toNat ≤ s.wptr.toNat + j then s.wptr.toNat + j - s.count.toNat
      else s.wptr.toNat + j + s.cfg.cap - s.count.toNat := by
  have hw := hi.wptrLt
  have hn := hi.countLe
  unfold ringSlot
  split
  · rw [Int.emod_eq_of_lt (by omega) (by omega)]
    omega
  · rw [← Int.add_emod_right, Int.emod_eq_of_lt (by omega) (by omega)]
    omega

/-- The slot after the newest edge is the one the write pointer shows. -/
theorem CaptureInv.ringSlot_count {s : State} (hi : CaptureInv s) : ringSlot s s.count.toNat = s.wptr.toNat := by
  rw [hi.ringSlot_eq le_rfl, if_pos (by omega)]
  omega

/-- The write pointer shows no valid slot but, in a full ring, the oldest. -/
theorem CaptureInv.ringSlot_ne_wptr {s : State} (hi : CaptureInv s) {j : Nat} (hj : j < s.count.toNat)
    (hd : s.count.toNat + 1 - s.cfg.cap ≤ j) : ringSlot s j ≠ s.wptr.toNat := by
  have hw := hi.wptrLt
  rw [hi.ringSlot_eq hj.le]
  split <;> omega

/-! ## Append -/

theorem append_wptr_toNat {s : State} (hi : CaptureInv s) (e : Edge) :
    (append s e).wptr.toNat = (s.wptr.toNat + 1) % s.cfg.cap := by
  obtain ⟨h1, h2, -, -⟩ := hi.legal
  have := Nat.mod_lt (s.wptr.toNat + 1) h1
  simp only [append_wptr, BitVec.toNat_ofNat]
  exact Nat.mod_eq_of_lt (by omega)

theorem append_count_toNat {s : State} (hi : CaptureInv s) (e : Edge) :
    (append s e).count.toNat = min (s.count.toNat + 1) s.cfg.cap := by
  obtain ⟨-, h2, -, -⟩ := hi.legal
  simp only [append_count, BitVec.toNat_ofNat]
  exact Nat.mod_eq_of_lt (by omega)

/-- After an append the `j`-th oldest edge lies where the one after the dropped edges lay before. -/
theorem ringSlot_append {s : State} (hi : CaptureInv s) (e : Edge) (j : Nat) :
    ringSlot (append s e) j = ringSlot s (s.count.toNat + 1 - s.cfg.cap + j) := by
  have hn := hi.countLe
  unfold ringSlot
  rw [append_wptr_toNat hi, append_count_toNat hi, append_cfg, Int.natCast_emod, sub_add_eq_add_sub, add_sub_assoc,
    Int.emod_add_emod]
  congr 2
  omega

/-- What a slot that stays valid, or the newest, reads as after an append (20_memory.md R51). -/
theorem read_append_ringSlot {s : State} (hi : CaptureInv s) (e : Edge) {j : Nat} (hj : j ≤ s.count.toNat)
    (hd : s.count.toNat + 1 - s.cfg.cap ≤ j) :
    (append s e).capMem.read (ringSlot s j) =
      if j < s.count.toNat then s.capMem.read (ringSlot s j) else some e := by
  rw [append_capMem]
  split
  · next h => exact Memory.read_write_other _ _ _ _ (hi.ringSlot_ne_wptr h hd)
  · next h =>
    obtain rfl : j = s.count.toNat := by omega
    rw [hi.ringSlot_count]
    exact Memory.read_write_same _ _ _

theorem capRead_append {s : State} (hi : CaptureInv s) (e : Edge) {j : Nat} (hj : j ≤ s.count.toNat)
    (hd : s.count.toNat + 1 - s.cfg.cap ≤ j) :
    capRead (append s e) (ringSlot s j) = if j < s.count.toNat then capRead s (ringSlot s j) else e := by
  simp only [capRead, read_append_ringSlot hi e hj hd]
  by_cases h : j < s.count.toNat <;> simp [h]

/-- An append adds the edge to the ring's list and drops the oldest beyond `C` (10_state.md R25, 40_capture.md R104). -/
theorem captured_append {s : State} (hi : CaptureInv s) (e : Edge) :
    captured (append s e) = (captured s ++ [e]).drop (s.count.toNat + 1 - s.cfg.cap) := by
  have hlen := append_count_toNat hi e
  apply List.ext_getElem
  · simp only [captured_length, List.length_drop, List.length_append, List.length_singleton]
    omega
  · intro j h1 _
    rw [captured_length, hlen] at h1
    have hread := capRead_append hi e (j := s.count.toNat + 1 - s.cfg.cap + j) (by omega) (by omega)
    simp only [captured, List.getElem_map, List.getElem_range, List.getElem_drop, List.getElem_append, List.length_map,
      List.length_range, List.getElem_singleton, ringSlot_append hi, hread, dite_eq_ite]

theorem getLast?_captured_append {s : State} (hi : CaptureInv s) (e : Edge) : (captured (append s e)).getLast? = some e := by
  obtain ⟨h1, -, -, -⟩ := hi.legal
  have hn := hi.countLe
  rw [captured_append hi, List.getLast?_drop, if_neg, List.getLast?_concat]
  simp only [List.length_append, captured_length, List.length_singleton]
  omega

/-- An edge that is not debounced keeps the capture invariant when it is appended. -/
theorem CaptureInv.append {s : State} (hi : CaptureInv s) {e : Edge} (hfit : Ts.fits s.cfg.width e.ts)
    (hdeb : s.lastValid = true → tDeb ≤ wrapdiff s.cfg.width e.ts s.lastTs) : CaptureInv (append s e) := by
  obtain ⟨hc1, hc2, hw⟩ := hi.legal
  have hwp := hi.wptrLt
  have hn := hi.countLe
  have hwptr := append_wptr_toNat hi e
  have hcount := append_count_toNat hi e
  refine
    { legal := hi.legal, memWf := Memory.wf_write hi.memWf _ _, slots := ?slots, wptrLt := ?wptrLt, countLe := ?countLe
      wptrEq := ?wptrEq, written := ?written, valid := ?valid, newest := ?newest, spaced := ?spaced }
  case slots =>
    intro c hc
    rcases Memory.mem_write hc with rfl | hc
    · exact ⟨hwp, hfit⟩
    · exact hi.slots c hc
  case wptrLt => rw [hwptr]; exact Nat.mod_lt _ hc1
  case countLe => rw [hcount]; exact min_le_right _ _
  case wptrEq =>
    intro h
    rw [hcount, append_cfg] at h
    have := hi.wptrEq (by omega)
    rw [hwptr, hcount, Nat.mod_eq_of_lt (by omega)]
    omega
  case written =>
    intro j hj
    rw [hcount] at hj
    rw [ringSlot_append hi, read_append_ringSlot hi e (by omega) (by omega)]
    split
    · next h => exact hi.written _ h
    · rfl
  case valid =>
    rw [append_lastValid, hcount]
    exact iff_of_true rfl (by omega)
  case newest =>
    intro _
    rw [getLast?_captured_append hi]
    rfl
  case spaced =>
    rw [append_cfg, captured_append hi]
    refine (hi.spaced.concat fun a ha => ?_).drop _
    have hv : s.lastValid = true := by
      rw [hi.valid, ← captured_length]
      exact List.length_pos_of_ne_nil fun h => by simp [h] at ha
    obtain rfl : s.lastTs = a := Option.some.inj ((hi.newest hv).symm.trans ha)
    exact hdeb hv

/-! ## The capture invariant -/

theorem zextTs_fits (w : Nat) (v : Ts) : Ts.fits w (zextTs w v) := by
  simp only [Ts.fits, zextTs, BitVec.toNat_ofNat]
  exact (Nat.mod_le _ _).trans_lt (Nat.mod_lt _ (by positivity))

theorem CaptureInv.after_edge {s : State} (hi : CaptureInv s) (ts : Ts) (lvl capEn : Bool) :
    CaptureInv (after (.edge ts lvl capEn) s) := by
  simp only [after]
  split
  · exact hi
  · next h =>
    refine hi.append (zextTs_fits _ _) fun hv => ?_
    have hd : ¬ debounced s (zextTs s.cfg.width ts) = true := fun hd => h (.inr (.inr hd))
    simpa [debounced, hv] using hd

theorem CaptureInv.after_reset {s : State} (hi : CaptureInv s) : CaptureInv (after .reset s) := by
  obtain ⟨hc, -⟩ := hi.legal
  exact
    { legal := hi.legal, memWf := hi.memWf, slots := hi.slots, wptrLt := hc, countLe := Nat.zero_le _
      wptrEq := fun _ => rfl, written := fun j hj => absurd hj (Nat.not_lt_zero j)
      valid := iff_of_false Bool.false_ne_true (Nat.lt_irrefl 0)
      newest := fun h => absurd h Bool.false_ne_true
      spaced := fun d hd => absurd hd List.not_mem_nil }

theorem CaptureInv.after {s : State} (hi : CaptureInv s) (i : Instr) : CaptureInv (after i s) := by
  cases i with
  | reset => exact hi.after_reset
  | edge ts lvl en => exact hi.after_edge ts lvl en
  | _ => exact hi.congr (after_sameCapture (by simp) (by simp) s)

/-- Settles O9: each slot of the ring after the append is the slot before it that is one further on, or the one just written. -/
theorem ringKeepsTheMostRecentEdges : Obligations.RingKeepsTheMostRecentEdges := by
  intro s e hi
  rw [captured_length]
  exact captured_append hi e

/-- Settles O53: every operation keeps the invariant, EDGE by the list `captured_append` gives. -/
theorem stepKeepsCaptureInv : Obligations.StepKeepsCaptureInv := fun _ _ hi h =>
  step_keeps (fun u hu => hu.congr (beginCycle_sameCapture u)) (fun i _ hu => hu.after i) hi h

end Sys2Proof.Machine
end

section
/-! PROOFS. The snapshot invariant (10_state.md R31): START copies edges of which the capture invariant says all that is asked. -/

namespace Sys2Proof.Machine

open Sys2Proof

theorem SameSnapshot.snapshot_eq {s t : State} (h : SameSnapshot s t) : snapshot t = snapshot s :=
  snapshot_congr h.cfg h.snapMem h.snapLen

theorem SnapInv.congr {s t : State} (hi : SnapInv s) (h : SameSnapshot s t) : SnapInv t where
  memWf := by rw [h.snapMem]; exact hi.memWf
  slots := by rw [h.snapMem, h.cfg]; exact hi.slots
  lenLe := by rw [h.snapLen, h.cfg]; exact hi.lenLe
  written := by rw [h.snapLen, h.snapMem]; exact hi.written
  spaced := by rw [h.cfg, h.snapshot_eq]; exact hi.spaced

theorem SnapInv.openSnapshot {s : State} (hi : SnapInv s) (hc : CaptureInv s) : SnapInv (openSnapshot s) where
  memWf := Memory.wf_overlay hi.memWf _
  slots c h := by
    rcases Memory.mem_overlay h with ⟨hj, he⟩ | h
    · rw [captured_length] at hj
      exact ⟨hj.trans_le hc.countLe, hc.fits_of_mem_captured he⟩
    · exact hi.slots c h
  lenLe := hc.countLe
  written j hj := by
    rw [openSnapshot_snapMem, Memory.read_overlay_lt _ _ (by simpa using hj)]
    rfl
  spaced := by
    rw [snapshot_openSnapshot]
    exact hc.spaced

theorem SnapInv.after_reset {s : State} (hi : SnapInv s) : SnapInv (after .reset s) where
  memWf := hi.memWf
  slots := hi.slots
  lenLe := Nat.zero_le _
  written j hj := absurd hj (Nat.not_lt_zero j)
  spaced _ hd := absurd hd List.not_mem_nil

theorem SnapInv.after {s : State} (hi : SnapInv s) (hc : CaptureInv s) (i : Instr) : SnapInv (after i s) := by
  cases i with
  | reset => exact hi.after_reset
  | start =>
    simp only [Machine.after]
    split
    · exact hi.openSnapshot hc
    · exact hi
  | _ => exact hi.congr (after_sameSnapshot (by simp) (by simp) s)

/-- Settles O54: the capture invariant is carried along, because START copies the ring after the cycle's EDGE. -/
theorem stepKeepsSnapInv : Obligations.StepKeepsSnapInv := fun _ _ hc hs h =>
  (step_keeps (P := fun u => CaptureInv u ∧ SnapInv u)
    (fun u hu => ⟨hu.1.congr (beginCycle_sameCapture u), hu.2.congr (beginCycle_sameSnapshot u)⟩)
    (fun i _ hu => ⟨hu.1.after i, hu.2.after hu.1 i⟩) ⟨hc, hs⟩ h).2

end Sys2Proof.Machine
end

section
/-! PROOFS. What a window's statistics can be (41_pulse_extract.md R137, 10_state.md R33), that the result registers hold them
exactly, and the invariant of the result registers. -/

namespace Sys2Proof.Machine

open Sys2Proof

/-! ## Bounds of the parts -/

theorem cap_le_of_legal {c : Config} (hc : c.Legal) : c.cap ≤ 65536 := hc.2.1

theorem toNat_ofNat_of_lt {w n : Nat} (h : n < 2 ^ w) : (BitVec.ofNat w n).toNat = n := by
  rw [BitVec.toNat_ofNat, Nat.mod_eq_of_lt h]

/-- `wrapdiff` lies in the range of `W`-bit two's complement (41_pulse_extract.md R131). -/
theorem wrapdiff_range {w : Nat} (hw : 1 ≤ w) (b a : Ts) :
    -(2 ^ (w - 1)) ≤ wrapdiff w b a ∧ wrapdiff w b a < 2 ^ (w - 1) := by
  obtain ⟨m, rfl⟩ := Nat.exists_eq_add_of_le' hw
  obtain ⟨h1, h2, -⟩ := sext_range m (((b.toNat : Int) - (a.toNat : Int)) % 2 ^ (m + 1))
  exact ⟨h1, h2⟩

/-- A difference of timestamps lies in the range of a 32-bit register. -/
theorem wrapdiff_range_of_legal {c : Config} (hc : c.Legal) (b a : Ts) :
    -(2 ^ 31) ≤ wrapdiff c.width b a ∧ wrapdiff c.width b a < 2 ^ 31 := by
  obtain ⟨-, -, h1, h2⟩ := hc
  obtain ⟨hlo, hhi⟩ := wrapdiff_range (by omega : 1 ≤ c.width) b a
  have hp : (2 : Int) ^ (c.width - 1) ≤ 2 ^ 31 := pow_le_pow_right₀ (by norm_num) (by omega)
  omega

/-- Every pulse is opened by one pair of edges and closed by another; a pulse already open needs the second only. -/
theorem extractFrom_length (w : Nat) (op : Option Ts) (es : List Edge) :
    2 * (extractFrom w op es).length ≤ es.length - 1 + if op.isSome then 1 else 0 := by
  fun_induction extractFrom w op es with
  | case1 op a b rest hfall ih =>
    simp only [Option.isSome_some, if_true, List.length_cons] at ih ⊢
    split <;> omega
  | case2 a b rest hfall hrise ih => exact Nat.le_trans ih (Nat.le_succ _)
  | case3 a b rest hfall hrise t hpos ih | case4 a b rest hfall hrise t hpos ih =>
    simp only [Option.isSome_none, Option.isSome_some, Bool.false_eq_true, if_false, if_true, List.length_cons] at ih ⊢
    omega
  | case5 op a b rest hfall hrise ih =>
    simp only [List.length_cons] at ih ⊢
    omega
  | case6 op es hshort => simp

theorem extractPulses_length (w : Nat) (es : List Edge) : 2 * (extractPulses w es).length ≤ es.length - 1 :=
  extractFrom_length w none es

/-- A pulse's duration is a positive difference of two timestamps (41_pulse_extract.md R134). -/
theorem dur_of_mem_extractFrom {w : Nat} {op : Option Ts} {es : List Edge} {p : Pulse} (h : p ∈ extractFrom w op es) :
    0 < p.dur ∧ ∃ b a, p.dur = wrapdiff w b a := by
  fun_induction extractFrom w op es with
  | case1 _ _ _ _ _ ih | case2 _ _ _ _ _ ih | case4 _ _ _ _ _ _ _ ih | case5 _ _ _ _ _ _ ih => exact ih h
  | case3 a b rest hfall hrise t hpos ih =>
    rcases List.mem_cons.1 h with rfl | h
    · exact ⟨hpos, _, _, rfl⟩
    · exact ih h
  | case6 => exact absurd h List.not_mem_nil

theorem dur_of_mem_extractPulses {c : Config} (hc : c.Legal) {es : List Edge} {p : Pulse}
    (h : p ∈ extractPulses c.width es) : 0 ≤ p.dur ∧ p.dur ≤ 2 ^ 31 := by
  obtain ⟨hpos, b, a, hd⟩ := dur_of_mem_extractFrom h
  have := (wrapdiff_range_of_legal hc b a).2
  omega

theorem sum_dur_bounds {ps : List Pulse} (h : ∀ p ∈ ps, 0 ≤ p.dur ∧ p.dur ≤ 2 ^ 31) :
    0 ≤ (ps.map fun p => p.dur).sum ∧ (ps.map fun p => p.dur).sum ≤ 2 ^ 31 * ps.length := by
  induction ps with
  | nil => simp
  | cons p ps ih =>
    obtain ⟨h1, h2⟩ := h p List.mem_cons_self
    obtain ⟨h3, h4⟩ := ih fun q hq => h q (List.mem_cons_of_mem _ hq)
    simp only [List.map_cons, List.sum_cons, List.length_cons]
    omega

theorem risingT_length_le (es : List Edge) : (risingT es).length ≤ es.length := by
  fun_induction risingT es with
  | case1 a b rest hrise ih => exact Nat.succ_le_succ ih
  | case2 a b rest hrise ih => exact Nat.le_succ_of_le ih
  | case3 es hshort => exact Nat.zero_le _

theorem risingEdges_length_le (c : Config) (es : List Edge) : (risingEdges c es).length ≤ es.length := by
  unfold risingEdges
  split
  · exact risingT_length_le es
  · rw [risingH, List.length_map]
    exact List.length_filter_le _ _

theorem count_zero_add_count_one_le (cs : List BitClass) : cs.count .zero + cs.count .one ≤ cs.length := by
  induction cs with
  | nil => simp
  | cons c cs ih => cases c <;> simp <;> omega

theorem syncPulses_length_le (w : Nat) (ps : List Pulse) : (syncPulses w ps).length ≤ ps.length := by
  have := List.length_filterMap_le (candidateAt w ps (classifyAll ps)) (List.range (ps.length - 1))
  rw [List.length_range] at this
  exact this.trans (Nat.sub_le _ _)

theorem verdictOf_ne_none (st : Stats) : verdictOf st ≠ .none := by
  unfold verdictOf
  split
  · decide
  · split <;> decide

/-! ## The statistics of a snapshot -/

/-- The records ANALYZE decodes from a snapshot. -/
def snapRecords (c : Config) (es : List Edge) : List Record := decodeAll (syncPulses c.width (extractPulses c.width es))

/-- The statistics ANALYZE computes of a snapshot. -/
def snapStats (c : Config) (es : List Edge) : Stats :=
  windowStats c es (extractPulses c.width es) (classifyAll (extractPulses c.width es)) (risingEdges c es) (snapRecords c es)

/-- The full result is made of these (45_signal_classify.md R230). -/
theorem windowResults_full {c : Config} {es : List Edge} (hlen : minEdges ≤ es.length) (hps : extractPulses c.width es ≠ []) :
    windowResults c es =
      fullResults (BitVec.ofNat 17 es.length) (snapStats c es) (verdictOf (snapStats c es)) (snapRecords c es) := by
  unfold windowResults
  rw [if_neg (Nat.not_lt.2 hlen), if_neg hps]
  rfl

section Bounds

variable (c : Config) (es : List Edge)

theorem snapStats_pulseCount_le : 2 * (snapStats c es).pulseCount ≤ es.length - 1 := extractPulses_length c.width es

theorem snapStats_classes_sum :
    (snapStats c es).short + (snapStats c es).long + (snapStats c es).other = (snapStats c es).pulseCount := by
  have h := count_zero_add_count_one_le (classifyAll (extractPulses c.width es))
  rw [classifyAll, List.length_map, ← classifyAll] at h
  simp only [snapStats, windowStats]
  omega

theorem snapStats_secLike_le : (snapStats c es).secLike ≤ es.length - 1 := by
  refine List.countP_le_length.trans ?_
  rw [gaps_length]
  exact Nat.sub_le_sub_right (risingEdges_length_le c es) 1

theorem snapStats_markerLike_le : (snapStats c es).markerLike ≤ es.length - 1 := by
  refine List.countP_le_length.trans ?_
  have hr := risingEdges_length_le c es
  have hp := extractPulses_length c.width es
  unfold markerGapsOf
  split
  · rw [gaps_length]
    omega
  · rw [pulseGaps, gaps_length, List.length_map]
    omega

theorem snapStats_frames_le : (snapStats c es).frames ≤ (snapStats c es).pulseCount :=
  (List.length_filterMap_le _ _).trans (syncPulses_length_le _ _)

variable {c}

theorem snapStats_span_range (hc : c.Legal) : -(2 ^ 31) ≤ (snapStats c es).span ∧ (snapStats c es).span < 2 ^ 31 := by
  simp only [snapStats, windowStats, spanOf]
  split
  · exact wrapdiff_range_of_legal hc _ _
  · norm_num

/-- At most 2^15 pulses of at most 2^31 microseconds. -/
theorem snapStats_durSum_range (hc : c.Legal) (hlen : es.length ≤ c.cap) :
    0 ≤ (snapStats c es).durSum ∧ (snapStats c es).durSum ≤ 2 ^ 46 := by
  have hcap := cap_le_of_legal hc
  obtain ⟨h0, h1⟩ := sum_dur_bounds fun p hp => dur_of_mem_extractPulses hc (es := es) hp
  have hn := extractPulses_length c.width es
  exact ⟨h0, h1.trans (by omega)⟩

end Bounds

/-! ## The registers hold the statistics -/

/-- The result registers hold the length and the statistics as they are, no width cutting one off (10_state.md R33). -/
structure HoldsExactly (r : Results) (len : Nat) (st : Stats) : Prop where
  snapLen : r.snapLen.toNat = len
  span : r.span.toInt = st.span
  pulseCount : r.pulseCount.toNat = st.pulseCount
  short : r.short.toNat = st.short
  long : r.long.toNat = st.long
  other : r.other.toNat = st.other
  durSum : (r.durSum.toNat : Int) = st.durSum
  secLike : r.secLike.toNat = st.secLike
  markerLike : r.markerLike.toNat = st.markerLike
  frames : r.frames.toNat = st.frames
  nsamples : r.nsamples.toNat = min st.frames 3

theorem windowResults_holdsExactly {c : Config} {es : List Edge} (hc : c.Legal) (hcap : es.length ≤ c.cap)
    (hlen : minEdges ≤ es.length) (hps : extractPulses c.width es ≠ []) :
    HoldsExactly (windowResults c es) es.length (snapStats c es) := by
  rw [windowResults_full hlen hps]
  have hc2 := cap_le_of_legal hc
  have hpulses := snapStats_pulseCount_le c es
  have hclasses := snapStats_classes_sum c es
  have hsec := snapStats_secLike_le c es
  have hmark := snapStats_markerLike_le c es
  have hframes := snapStats_frames_le c es
  obtain ⟨hs1, hs2⟩ := snapStats_span_range es hc
  obtain ⟨hd1, hd2⟩ := snapStats_durSum_range es hc hcap
  exact
    { snapLen := toNat_ofNat_of_lt (by omega)
      span := BitVec.toInt_ofInt_eq_self (by norm_num) hs1 hs2
      pulseCount := toNat_ofNat_of_lt (by omega)
      short := toNat_ofNat_of_lt (by omega)
      long := toNat_ofNat_of_lt (by omega)
      other := toNat_ofNat_of_lt (by omega)
      durSum := by
        simp only [fullResults, BitVec.toNat_ofInt]
        omega
      secLike := toNat_ofNat_of_lt (by omega)
      markerLike := toNat_ofNat_of_lt (by omega)
      frames := toNat_ofNat_of_lt (by omega)
      nsamples := toNat_ofNat_of_lt (by simp only [maxSamples]; omega) }

/-- Settles O39: every statistic is within the width of its register. -/
theorem resultRegistersHoldExactValues : Obligations.ResultRegistersHoldExactValues := by
  intro s hc hs hlen hps
  have hl := snapshot_length s
  have h := windowResults_holdsExactly hc (hl ▸ hs.lenLe) (hl ▸ hlen) hps
  exact ⟨h.snapLen, h.span, h.pulseCount, h.short, h.long, h.other, h.durSum, h.secLike, h.markerLike, h.frames, h.nsamples⟩

/-! ## The result invariant -/

/-- A skip commits its code and the length alone (45_signal_classify.md R231). -/
theorem resultInv_skip {c : Config} {code : ResultCode} {len : BitVec 17} (hlen : len.toNat ≤ c.cap) (hok : code ≠ .ok)
    (hfresh : code = .none → len = 0) (hfew : code = .insufficientEdges → len.toNat < minEdges)
    (henough : code = .noClosedPulses → minEdges ≤ len.toNat) :
    ResultInv c { Results.zero with result := code, snapLen := len } where
  lenLe := hlen
  skipped _ := rfl
  fresh := hfresh
  few := hfew
  enough h := henough (h.resolve_left hok)
  full h := absurd h hok
  pulses := Nat.zero_le _
  classes := rfl
  durSum := Nat.zero_le _
  secLike := Nat.zero_le _
  markerLike := Nat.zero_le _
  frames := Nat.zero_le _
  nsamples := rfl
  sample0 _ := rfl
  sample1 _ := rfl
  sample2 _ := rfl

theorem resultInv_zero (c : Config) : ResultInv c Results.zero :=
  resultInv_skip (code := .none) (len := 0) (Nat.zero_le _) nofun (fun _ => rfl) nofun nofun

theorem sampleOf_eq_zero {df : List Record} {k : Nat} (h : df.length ≤ k) : sampleOf df k = Record.zero := by
  simp [sampleOf, List.getElem?_eq_none h]

theorem resultInv_full {c : Config} {es : List Edge} (hc : c.Legal) (hcap : es.length ≤ c.cap)
    (hlen : minEdges ≤ es.length) (hps : extractPulses c.width es ≠ []) : ResultInv c (windowResults c es) := by
  have hx := windowResults_holdsExactly hc hcap hlen hps
  have hfull := windowResults_full hlen hps
  have hresult : (windowResults c es).result = .ok := by rw [hfull]; rfl
  have hsamples : ∀ k < 3, (windowResults c es).nsamples.toNat ≤ k → sampleOf (snapRecords c es) k = Record.zero := by
    intro k hk h
    rw [hx.nsamples] at h
    have hlen : (snapStats c es).frames = (snapRecords c es).length := rfl
    exact sampleOf_eq_zero (by omega)
  have hpos : 1 ≤ (snapStats c es).pulseCount := List.length_pos_of_ne_nil hps
  exact
    { lenLe := by rw [hx.snapLen]; exact hcap
      skipped := fun h => absurd hresult h
      fresh := fun h => by rw [hresult] at h; cases h
      few := fun h => by rw [hresult] at h; cases h
      enough := fun _ => by rw [hx.snapLen]; exact hlen
      full := fun _ => ⟨by rw [hx.pulseCount]; exact hpos, by rw [hfull]; exact verdictOf_ne_none _⟩
      pulses := by rw [hx.pulseCount, hx.snapLen]; exact snapStats_pulseCount_le c es
      classes := by rw [hx.short, hx.long, hx.other, hx.pulseCount]; exact snapStats_classes_sum c es
      durSum := by
        have := (snapStats_durSum_range es hc hcap).2
        rw [← hx.durSum] at this
        exact_mod_cast this
      secLike := by rw [hx.secLike, hx.snapLen]; exact snapStats_secLike_le c es
      markerLike := by rw [hx.markerLike, hx.snapLen]; exact snapStats_markerLike_le c es
      frames := by rw [hx.frames, hx.pulseCount]; exact snapStats_frames_le c es
      nsamples := by rw [hx.nsamples, hx.frames]; rfl
      sample0 := fun h => by rw [← hsamples 0 (by norm_num) h, hfull]; rfl
      sample1 := fun h => by rw [← hsamples 1 (by norm_num) h, hfull]; rfl
      sample2 := fun h => by rw [← hsamples 2 (by norm_num) h, hfull]; rfl }

/-- Whatever the snapshot, ANALYZE commits registers that meet their invariant. -/
theorem windowResults_resultInv {c : Config} {es : List Edge} (hc : c.Legal) (hcap : es.length ≤ c.cap) :
    ResultInv c (windowResults c es) := by
  have hc2 := cap_le_of_legal hc
  have hn : (BitVec.ofNat 17 es.length).toNat = es.length := toNat_ofNat_of_lt (by omega)
  by_cases hlen : es.length < minEdges
  · simp only [windowResults, if_pos hlen]
    exact resultInv_skip (hn.trans_le hcap) nofun nofun (fun _ => hn.trans_lt hlen) nofun
  · by_cases hps : extractPulses c.width es = []
    · simp only [windowResults, if_neg hlen, if_pos hps]
      exact resultInv_skip (hn.trans_le hcap) nofun nofun nofun fun _ => (Nat.not_lt.1 hlen).trans_eq hn.symm
    · exact resultInv_full hc hcap (Nat.not_lt.1 hlen) hps

theorem ResultInv.after {s : State} (hr : ResultInv s.cfg s.res) (hc : s.cfg.Legal) (hs : SnapInv s) {i : Instr}
    (hi : CycleOp i) : ResultInv (after i s).cfg (after i s).res := by
  rw [after_cfg]
  cases hi with
  | reset => exact resultInv_zero _
  | analyze =>
    simp only [Machine.after]
    split
    · rw [analyzeWindow_res]
      exact windowResults_resultInv hc (by rw [snapshot_length]; exact hs.lenLe)
    · exact hr
  | _ => rw [after_res (by simp) (by simp) (by simp)]; exact hr

/-- Settles O55: the capture invariant gives the legal parameters and, at START, the snapshot invariant, which bounds what
ANALYZE commits. -/
theorem stepKeepsResultInv : Obligations.StepKeepsResultInv := fun _ _ hc hs hr h =>
  (step_keeps_of_cycleOp (P := fun u => CaptureInv u ∧ SnapInv u ∧ ResultInv u.cfg u.res)
    (fun u ⟨hc, hs, hr⟩ => ⟨hc.congr (beginCycle_sameCapture u), hs.congr (beginCycle_sameSnapshot u), hr⟩)
    (fun i _ hi ⟨hc, hs, hr⟩ => ⟨hc.after i, hs.after hc i, hr.after hc.legal hs hi⟩) ⟨hc, hs, hr⟩ h).2.2

end Sys2Proof.Machine
end

section
/-! PROOFS. The phase after a cycle (10_state.md R30), the boundary invariant, and that an unset `last_ts` is never read (R24). -/

namespace Sys2Proof.Machine

open Sys2Proof

/-! ## The phase -/

@[simp] theorem after_reset_phase (s : State) : (after .reset s).phase = .idle := rfl

@[simp] theorem after_read_phase (a : RegAddr) (en : Bool) (s : State) : (after (.read a en) s).phase = s.phase := rfl

@[simp] theorem after_nop_phase (s : State) : (after .nop s).phase = s.phase := rfl

@[simp] theorem after_edge_phase (ts : Ts) (lvl en : Bool) (s : State) : (after (.edge ts lvl en) s).phase = s.phase := by
  simp only [after]
  split <;> simp

/-- START is accepted in IDLE alone (40_capture.md R116). -/
@[simp] theorem after_start_phase (s : State) : (after .start s).phase = if s.phase = .idle then .snap else s.phase := by
  simp only [after]
  split <;> simp

@[simp] theorem after_snapClose_phase (s : State) :
    (after .snapClose s).phase = if s.phase = .snap then .analyze else s.phase := by
  simp only [after]
  split <;> simp

@[simp] theorem after_analyze_phase (s : State) :
    (after .analyze s).phase = if s.phase = .analyze then .idle else s.phase := by
  simp only [after]
  split <;> simp

/-- Of a bundle's operations without reset, START alone moves the phase. -/
theorem phase_foldl_ops {b : Bundle} (hr : b.rst = false) (s : State) :
    (b.ops.foldl (fun s i => after i s) s).phase = if b.start = true ∧ s.phase = .idle then .snap else s.phase := by
  have hread : ∀ u : State,
      ((if b.regRd then [.read b.regAddr b.capEn] else []).foldl (fun s i => after i s) u).phase = u.phase := by
    intro u
    split <;> simp
  have hedge : ∀ u : State, ((if b.edgeValid then [.edge b.edgeTs b.edgeLvl b.capEn] else []).foldl
      (fun s i => after i s) u).phase = u.phase := by
    intro u
    split <;> simp
  have hstart : ∀ u : State, ((if b.start then [.start] else []).foldl (fun s i => after i s) u).phase =
      if b.start = true ∧ u.phase = .idle then .snap else u.phase := by
    intro u
    cases b.start with
    | true => simp only [if_true, true_and]; exact after_start_phase u
    | false => simp
  rw [Bundle.ops_eq, if_neg (by simp [hr])]
  split
  · simp only [List.foldl_append, hstart, hedge, hread]
  · next hno =>
    have hs : b.start = false := by simp_all
    simp [hs]

/-- Settles O49: in the bundle's operations START alone moves the phase; then the internal operation of the phase at the start of
the cycle does, if its draw fires. -/
theorem phaseOrder : Obligations.PhaseOrder := by
  intro s t h
  obtain ⟨hf, rfl⟩ := step_next h
  unfold cycleOps
  cases hr : (nextBundle s).rst with
  | true => simp [Bundle.ops_of_rst hr]
  | false =>
    have hops := phase_foldl_ops hr (beginCycle s)
    rw [beginCycle_phase] at hops
    simp only [Bool.false_eq_true, if_false, List.foldl_append]
    cases hp : s.phase with
    | idle => simpa [hp] using hops
    | snap => cases hd : (nextDraw s).close <;> simp [hops, hp, hd]
    | analyze => cases hd : (nextDraw s).commit <;> simp [hops, hp, hd]
    | reserved => simp [cycleFaults, hr, hp] at hf

/-! ## The boundary invariant -/

theorem BoundaryInv.after {s : State} (h : BoundaryInv s) {i : Instr} (hi : CycleOp i) : BoundaryInv (after i s) := by
  obtain ⟨hp, hw⟩ := h
  cases hi with
  | reset => exact ⟨by simp, rfl⟩
  | read a en => exact ⟨hp, hw⟩
  | nop => exact ⟨hp, hw⟩
  | edge ts lvl en =>
    simp only [Machine.after]
    split <;> exact ⟨hp, hw⟩
  | start =>
    simp only [Machine.after]
    split
    · exact ⟨by simp, hw⟩
    · exact ⟨hp, hw⟩
  | snapClose =>
    simp only [Machine.after]
    split
    · exact ⟨by simp, hw⟩
    · exact ⟨hp, hw⟩
  | analyze =>
    simp only [Machine.after]
    split
    · exact ⟨by simp, by simp⟩
    · exact ⟨hp, hw⟩

/-- Settles O56: no stage of ANALYZE runs on its own in a cycle, and ANALYZE itself leaves nothing handed over. -/
theorem stepKeepsBoundaryInv : Obligations.StepKeepsBoundaryInv := fun _ _ hi h =>
  step_keeps_of_cycleOp (fun _ hu => ⟨hu.phase, hu.work⟩) (fun _ _ hi hu => hu.after hi) hi h

/-! ## An unset last timestamp -/

/-- While `last_valid = 0` the debounce test lets every edge through (40_capture.md R103). -/
theorem debounced_of_unset {s : State} (h : s.lastValid = false) (t : Ts) : debounced s t = false := by
  simp [debounced, h]

/-- No operation but EDGE reads or writes `last_ts`. -/
theorem after_lastTs {i : Instr} (he : ∀ ts lvl en, i ≠ .edge ts lvl en) (s : State) (x : Ts) :
    after i { s with lastTs := x } = { after i s with lastTs := x } := by
  cases i with
  | edge ts lvl en => exact absurd rfl (he ts lvl en)
  | analyze =>
    simp only [after]
    split
    · rw [analyzeWindow_frame, analyzeWindow_res, analyzeWindow_frame s, analyzeWindow_res]
      rfl
    · rfl
  | reset | read a en | nop => rfl
  | start | snapClose | extract | classify | sync | decode | stats | verdict | commit =>
    simp only [after]
    split <;> rfl

/-- Settles O15: EDGE goes through the debounce test whatever `last_ts` holds, and is the one operation that looks at it. -/
theorem unsetLastTimestampIsNeverRead : Obligations.UnsetLastTimestampIsNeverRead := by
  intro i s x hv
  refine ⟨after i s, after i { s with lastTs := x }, exec_eq _ _, exec_eq _ _, ?_⟩
  by_cases he : ∃ ts lvl en, i = .edge ts lvl en
  · obtain ⟨ts, lvl, en, rfl⟩ := he
    simp only [after, debounced_of_unset hv, debounced_of_unset (s := { s with lastTs := x }) hv]
    split
    · exact ⟨rfl, fun h => absurd (hv.symm.trans h) Bool.false_ne_true⟩
    · exact ⟨rfl, fun _ => rfl⟩
  · have he' : ∀ ts lvl en, i ≠ .edge ts lvl en := fun ts lvl en h => he ⟨ts, lvl, en, h⟩
    rw [after_lastTs he']
    refine ⟨rfl, fun h => ?_⟩
    by_cases hr : i = .reset
    · subst hr; cases h
    · rw [(after_sameCapture hr he' s).lastValid, hv] at h
      cases h

end Sys2Proof.Machine
end

section
/-! PROOFS. The register space as the host reads it (10_state.md R35 to R38). -/

namespace Sys2Proof.Machine

open Sys2Proof

/-! ## Words of several fields -/

/-- STATUS is the sum of its fields at their places (10_state.md R36). -/
theorem statusWord_toNat (s : State) (en : Bool) :
    (statusWord s en).toNat = s.busy.toNat + 2 * s.snapOpen.toNat + 4 * s.res.result.code.toNat
      + 16 * s.res.verdict.code.toNat + 64 * s.res.nsamples.toNat + 256 * en.toNat := by
  have := s.busy.toNat_lt
  have := s.snapOpen.toNat_lt
  have := en.toNat_lt
  simp only [statusWord, BitVec.toNat_ofNat]
  omega

theorem frameA_toNat (r : Record) :
    (frameA r).toNat = r.minute.toNat + 2 ^ 8 * r.hour.toNat + 2 ^ 16 * r.day.toNat + 2 ^ 24 * r.weekday.toNat := by
  simp only [frameA, BitVec.toNat_ofNat]
  omega

theorem frameB_toNat (r : Record) : (frameB r).toNat = r.month.toNat + 2 ^ 8 * r.year.toNat := by
  simp only [frameB, BitVec.toNat_ofNat]
  omega

/-- A field cut out of a word, by the word's number. -/
theorem extractLsb'_eq_of_div_mod {x : RegWord} {lo n : Nat} {v : BitVec n} (h : x.toNat / 2 ^ lo % 2 ^ n = v.toNat) :
    x.extractLsb' lo n = v := by
  apply BitVec.eq_of_toNat_eq
  rw [BitVec.extractLsb'_toNat, Nat.shiftRight_eq_div_pow, h]

/-- The host gets a sample back from its pair of words (30_encoding.md R81). -/
theorem assembleRecord_frame (r : Record) : assembleRecord (frameA r) (frameB r) = r := by
  have hA := frameA_toNat r
  have hB := frameB_toNat r
  change assembleRecord (frameA r) (frameB r) = ⟨r.minute, r.hour, r.day, r.weekday, r.month, r.year⟩
  simp only [assembleRecord, Record.mk.injEq]
  exact ⟨extractLsb'_eq_of_div_mod (by omega), extractLsb'_eq_of_div_mod (by omega), extractLsb'_eq_of_div_mod (by omega),
    extractLsb'_eq_of_div_mod (by omega), extractLsb'_eq_of_div_mod (by omega), extractLsb'_eq_of_div_mod (by omega)⟩

/-- The host gets the duration sum back from its two halves (30_encoding.md R81). -/
theorem assembleDurSum_halves (d : BitVec 64) :
    assembleDurSum (d.extractLsb' 0 32) (d.extractLsb' 32 32) = d.toNat := by
  simp only [assembleDurSum, BitVec.extractLsb'_toNat, Nat.shiftRight_eq_div_pow]
  omega

/-- The reserved indices read 0 (10_state.md R36). -/
theorem readReg_reserved (s : State) {a : RegAddr} (h : 0x14 ≤ a.toNat) (en : Bool) : readReg s a en = 0 := by
  unfold readReg
  split
  case h_21 => rfl
  all_goals omega

/-- The fields of STATUS the host cuts out are the ones put in. -/
theorem statusWord_verdict (s : State) (en : Bool) : (statusWord s en).extractLsb' 4 2 = s.res.verdict.code := by
  have h := statusWord_toNat s en
  have := s.busy.toNat_lt
  have := s.snapOpen.toNat_lt
  exact extractLsb'_eq_of_div_mod (by omega)

theorem statusWord_nsamples (s : State) (en : Bool) : (statusWord s en).extractLsb' 6 2 = s.res.nsamples := by
  have h := statusWord_toNat s en
  have := s.busy.toNat_lt
  have := s.snapOpen.toNat_lt
  exact extractLsb'_eq_of_div_mod (by omega)

theorem hostRatio_of_ne {d : Int} (h : d ≠ 0) (n : Int) : hostRatio n d = some ((n : Rat) / (d : Rat)) := if_neg h

/-! ## The map and the report -/

/-- Settles O41: each index reads its register's word, taken apart above. -/
theorem registerMap : Obligations.RegisterMap := by
  intro s en
  refine ⟨statusWord_toNat s en, BitVec.toNat_setWidth_of_le (by norm_num), BitVec.toNat_setWidth_of_le (by norm_num),
    BitVec.toNat_setWidth_of_le (by norm_num), rfl, BitVec.toNat_setWidth_of_le (by norm_num),
    BitVec.toNat_setWidth_of_le (by norm_num), BitVec.toNat_setWidth_of_le (by norm_num),
    BitVec.toNat_setWidth_of_le (by norm_num), assembleDurSum_halves _, BitVec.toNat_setWidth_of_le (by norm_num),
    BitVec.toNat_setWidth_of_le (by norm_num), BitVec.toNat_setWidth_of_le (by norm_num), ?_,
    fun a h => readReg_reserved s h en⟩
  rintro k r (⟨rfl, rfl⟩ | ⟨rfl, rfl⟩ | ⟨rfl, rfl⟩)
  · exact ⟨frameA_toNat _, frameB_toNat _⟩
  · exact ⟨frameA_toNat _, frameB_toNat _⟩
  · exact ⟨frameA_toNat _, frameB_toNat _⟩

/-- Settles O42: the host's cuts and sums give the registers back, and its divisors are not 0 where a quotient is asked for. -/
theorem reportOfTheRegisters : Obligations.ReportOfTheRegisters := by
  intro s en
  obtain ⟨-, -, -, -, -, hcount, hshort, hlong, hother, -, hsec, hmarker, -⟩ := registerMap s en
  refine ⟨rfl, hcount, hshort, hlong, hother, hsec, hmarker, statusWord_verdict s en, assembleDurSum_halves _, ?frames,
    ?ratios, ?rate⟩
  case frames =>
    change List.take ((statusWord s en).extractLsb' 6 2).toNat [assembleRecord (frameA s.res.sample0) (frameB s.res.sample0),
      assembleRecord (frameA s.res.sample1) (frameB s.res.sample1),
      assembleRecord (frameA s.res.sample2) (frameB s.res.sample2)] = _
    simp only [statusWord_nsamples, assembleRecord_frame]
  case ratios =>
    intro hn
    have hne : (s.res.pulseCount.toNat : Int) ≠ 0 := by exact_mod_cast fun h => hn (BitVec.eq_of_toNat_eq h)
    have hdur : assembleDurSum (readReg s 0x09 en) (readReg s 0x0A en) = s.res.durSum.toNat := assembleDurSum_halves _
    simp only [hostReport, hcount, hshort, hlong, hother, hdur, hostRatio_of_ne hne]
    push_cast
    exact ⟨rfl, rfl, rfl⟩
  case rate =>
    intro hpos
    have hspan : (readReg s 0x04 en).toInt = s.res.span.toInt := rfl
    simp only [hostReport, hspan, hcount, if_neg (not_lt.2 hpos.le), hostRatio_of_ne hpos.ne']
    push_cast
    rfl

end Sys2Proof.Machine
end

section
/-! PROOFS. The two RAMs (20_memory.md): what an analysis reads of the snapshot (R62), and which operations store (R50). -/

namespace Sys2Proof.Machine

open Sys2Proof

/-! ## What an analysis reads -/

/-- The slots at or above `snap_len` are no part of the snapshot (10_state.md R31). -/
theorem snapshot_eq_of_snapRead {s t : State} (hl : t.snapLen = s.snapLen)
    (hr : ∀ j, j < s.snapLen.toNat → snapRead t j = snapRead s j) : snapshot t = snapshot s := by
  simp only [snapshot, hl]
  exact List.map_congr_left fun j hj => hr j (List.mem_range.1 hj)

/-- In phase ANALYZE the operation commits the results of the snapshot's window (45_signal_classify.md R230). -/
theorem after_analyze_res {s : State} (h : s.phase = .analyze) :
    (after .analyze s).res = windowResults s.cfg (snapshot s) := by
  simp only [after, if_pos h, analyzeWindow_res]

/-- Settles O38: both runs commit the results of one window, and the two snapshots are the same list of edges. -/
theorem analysisReadsOnlyTheSnapshot : Obligations.AnalysisReadsOnlyTheSnapshot := by
  intro s s' t t' hp hp' hc hl hr h h'
  obtain rfl := exec_next h
  obtain rfl := exec_next h'
  rw [after_analyze_res hp, after_analyze_res hp', hc, snapshot_eq_of_snapRead hl hr]

/-! ## Which operations store -/

/-- RESET keeps CAPMEM (70_reset_and_hazards.md R281), so only EDGE stores in it (20_memory.md R50). -/
theorem after_capMem {i : Instr} (he : ∀ ts lvl en, i ≠ .edge ts lvl en) (s : State) : (after i s).capMem = s.capMem := by
  by_cases hr : i = .reset
  · subst hr; rfl
  · exact (after_sameCapture hr he s).capMem

/-- RESET keeps SNAPMEM (70_reset_and_hazards.md R281), so only START stores in it (20_memory.md R50). -/
theorem after_snapMem {i : Instr} (hs : i ≠ .start) (s : State) : (after i s).snapMem = s.snapMem := by
  by_cases hr : i = .reset
  · subst hr; rfl
  · exact (after_sameSnapshot hr hs s).snapMem

/-- The two states agree on what the environment does and on the held output `busy` (logs 2, 3 and 12). -/
structure SameEnvironment (s t : State) : Prop where
  stim : t.stim = s.stim
  draws : t.draws = s.draws
  cycle : t.cycle = s.cycle
  busy : t.out.busy = s.out.busy

/-- The environment's fields and `busy` are written where a cycle begins (`beginCycle`), by no operation. -/
theorem after_sameEnvironment (i : Instr) (s : State) : SameEnvironment s (after i s) := by
  cases i with
  | reset | read | nop => exact ⟨rfl, rfl, rfl, rfl⟩
  | edge | start | snapClose | analyze | extract | classify | sync | decode | stats | verdict | commit =>
    simp only [after]
    split <;> constructor <;> simp

/-- Settles O52: a read of a RAM depends on the parameters, which no operation changes, and on a RAM that only its own operation
writes. -/
theorem onlyEdgeAndStartStore : Obligations.OnlyEdgeAndStartStore := by
  intro i s t h
  obtain rfl := exec_next h
  obtain ⟨hstim, hdraws, hcycle, hbusy⟩ := after_sameEnvironment i s
  exact ⟨fun he => capRead_congr (after_cfg i s) (after_capMem he s),
    fun hs => snapRead_congr (after_cfg i s) (after_snapMem hs s), after_cfg i s, hstim, hdraws, hcycle, hbusy⟩

end Sys2Proof.Machine
end

section
/-! PROOFS. The encodings (30_encoding.md R70 to R76): the decoder and the encoder, the control vector, and the edge word. -/

namespace Sys2Proof

/-! ## Decoding what was encoded -/

/-- A bundle's word decodes to the bundle's operations: six bytes hold it, its padding is 0, and it gives the bundle back. -/
theorem decode_ctl_word (b : Bundle) : decode .ctl (natToBytes 6 b.word.toNat) = .ok b.ops := by
  have hbytes : bytesToNat (natToBytes 6 b.word.toNat) = b.word.toNat := by
    rw [bytesToNat_natToBytes, Nat.mod_eq_of_lt (b.word_lt.trans (by norm_num))]
  simp only [decode, natToBytes_length, Format.bytes, hbytes, if_pos b.word_lt]
  simp [Bundle.ofWord_word]

/-- The bundle that carries one operation selects that operation alone (30_encoding.md R85). -/
theorem Instr.ops_bundle {i : Instr} (h : i.row.format = .ctl) : i.bundle.ops = [i] := by
  cases i with
  | reset | edge | start | read | nop => simp [Bundle.ops_eq, Instr.bundle, Bundle.idle]
  | snapClose | analyze | extract | classify | sync | decode | stats | verdict | commit => cases h

theorem decode_encode_of_ctl {i : Instr} (h : i.row.format = .ctl) : decode (encode i).1 (encode i).2 = .ok [i] := by
  simp only [encode, Instr.bits, h, Format.bytes]
  rw [decode_ctl_word, Instr.ops_bundle h]

/-- Settles O1: a CTL operation goes through its bundle's word, and each of the others has one byte of its own. -/
theorem decodeInvertsEncode : Obligations.DecodeInvertsEncode := by
  intro i
  cases i with
  | reset | edge | start | read | nop => exact decode_encode_of_ctl rfl
  | snapClose | analyze | extract | classify | sync | decode | stats | verdict | commit => rfl

/-- Settles O3: closed words, evaluated one by one. -/
theorem tableWordsDecode : Obligations.TableWordsDecode :=
  ⟨rfl, rfl, rfl, rfl, rfl, rfl, rfl, rfl, rfl, rfl, rfl, rfl⟩

/-! ## The control vector -/

/-- Every row of spec/opcode_table.json is at most four bits wide. -/
theorem Instr.row_lt (i : Instr) : i.row.mask < 2 ^ 4 ∧ i.row.value < 2 ^ 4 := by
  cases i <;> simp [Instr.row]

/-- A row selects a control vector as the table writes it: masked, the vector is the row's value. -/
theorem Instr.row_selects_toNat (i : Instr) (c : BitVec 4) :
    i.row.selects c.toNat = true ↔ c &&& BitVec.ofNat 4 i.row.mask = BitVec.ofNat 4 i.row.value := by
  obtain ⟨hm, hv⟩ := i.row_lt
  rw [Row.selects, beq_iff_eq, ← BitVec.toNat_inj, BitVec.toNat_and, BitVec.toNat_ofNat, BitVec.toNat_ofNat,
    Nat.mod_eq_of_lt hm, Nat.mod_eq_of_lt hv]

/-- A bundle's operations are those of its five candidates whose row the control vector matches. -/
theorem Bundle.mem_ops {b : Bundle} {i : Instr} : i ∈ b.ops ↔
    i ∈ [Instr.reset, .read b.regAddr b.capEn, .edge b.edgeTs b.edgeLvl b.capEn, .start, .nop]
      ∧ b.ctl &&& BitVec.ofNat 4 i.row.mask = BitVec.ofNat 4 i.row.value := by
  rw [Bundle.ops, List.mem_filter, i.row_selects_toNat]

/-- No bit is lost in the control vector (30_encoding.md R70). -/
theorem Bundle.ctl_toNat (b : Bundle) :
    b.ctl.toNat = b.edgeValid.toNat + 2 * b.start.toNat + 4 * b.regRd.toNat + 8 * b.rst.toNat := by
  have := b.edgeValid.toNat_lt
  have := b.start.toNat_lt
  have := b.regRd.toNat_lt
  have := b.rst.toNat_lt
  simp only [Bundle.ctl, BitVec.toNat_ofNat]
  omega

/-- `CTL[3]` is `rst` (30_encoding.md R70). -/
theorem Bundle.ctl_getLsbD_three (b : Bundle) : b.ctl.getLsbD 3 = b.rst := by
  have := b.edgeValid.toNat_lt
  have := b.start.toNat_lt
  have := b.regRd.toNat_lt
  have hrst : b.ctl.toNat / 2 ^ 3 % 2 = b.rst.toNat := by
    have := b.rst.toNat_lt
    rw [b.ctl_toNat]
    omega
  rw [BitVec.getLsbD, Nat.testBit_eq_decide_div_mod_eq, hrst]
  cases b.rst <;> rfl

/-- Every control vector selects some operation (30_encoding.md R74). -/
theorem Bundle.ops_ne_nil (b : Bundle) : b.ops ≠ [] := by
  rw [Bundle.ops_eq]
  split
  · simp
  · split
    · next h =>
      simp only [Bool.or_eq_true] at h
      obtain (h | h) | h := h <;> simp [h]
    · simp

/-- Settles O2: each of the five candidates is selected by its row's mask and match; NOP's mask is the whole vector. -/
theorem controlVectorSelectsOperations : Obligations.ControlVectorSelectsOperations := by
  intro b
  refine ⟨fun i => ?_, b.ops_ne_nil, fun h => Bundle.ops_of_rst (b.ctl_getLsbD_three ▸ h)⟩
  have hand : b.ctl &&& BitVec.ofNat 4 0b1111 = b.ctl := BitVec.and_allOnes
  rw [Bundle.mem_ops]
  constructor
  · rintro ⟨hi, hsel⟩
    simp only [List.mem_cons, List.not_mem_nil, or_false] at hi
    obtain rfl | rfl | rfl | rfl | rfl := hi
    · exact .inl ⟨rfl, hsel⟩
    · exact .inr (.inr (.inr (.inl ⟨rfl, hsel⟩)))
    · exact .inr (.inl ⟨rfl, hsel⟩)
    · exact .inr (.inr (.inl ⟨rfl, hsel⟩))
    · exact .inr (.inr (.inr (.inr ⟨rfl, hand.symm.trans hsel⟩)))
  · rintro (⟨rfl, h⟩ | ⟨rfl, h⟩ | ⟨rfl, h⟩ | ⟨rfl, h⟩ | ⟨rfl, h⟩)
    · exact ⟨by simp, h⟩
    · exact ⟨by simp, h⟩
    · exact ⟨by simp, h⟩
    · exact ⟨by simp, h⟩
    · exact ⟨by simp, hand.trans h⟩

end Sys2Proof

namespace Sys2Proof.Machine

open Sys2Proof

/-! ## The edge word -/

/-- `EW = ts * 2 + lvl` fits the word (30_encoding.md R72). -/
theorem Edge.word_toNat (e : Edge) : e.word.toNat = 2 * e.ts.toNat + e.lvl.toNat := by
  have := e.lvl.toNat_lt
  simp only [Edge.word, BitVec.toNat_ofNat]
  omega

/-- The low bit of the word is the level, and the rest the timestamp, which a width it fits does not cut off. -/
theorem Edge.ofWord_word {w : Nat} {e : Edge} (h : Ts.fits w e.ts) : Edge.ofWord w e.word = e := by
  have hlt := e.lvl.toNat_lt
  have hts : e.word.toNat / 2 % 2 ^ w = e.ts.toNat := by
    rw [e.word_toNat, show (2 * e.ts.toNat + e.lvl.toNat) / 2 = e.ts.toNat by omega, Nat.mod_eq_of_lt h]
  have hlvl : e.word.toNat % 2 = e.lvl.toNat := by
    rw [e.word_toNat]
    omega
  rw [Edge.ofWord, hts, BitVec.getLsbD, Nat.testBit_zero, hlvl]
  obtain ⟨ts, lvl⟩ := e
  cases lvl <;> simp

/-- Settles O4: the word's number, and the edge read back from it. -/
theorem edgeWordLayout : Obligations.EdgeWordLayout := fun _ e => ⟨e.word_toNat, Edge.ofWord_word⟩

end Sys2Proof.Machine
end

section
/-! PROOFS. The outputs of a cycle (30_encoding.md R71). -/

namespace Sys2Proof.Machine

open Sys2Proof

/-! ## What drives the outputs -/

/-- A register shows none of what the start of a cycle changes. -/
@[simp] theorem readReg_beginCycle (s : State) (a : RegAddr) (en : Bool) : readReg (beginCycle s) a en = readReg s a en := rfl

@[simp] theorem after_read_out (a : RegAddr) (en : Bool) (s : State) :
    (after (.read a en) s).out = { s.out with regRdata := readReg s a en } := rfl

@[simp] theorem after_nop_out (s : State) : (after .nop s).out = { s.out with regRdata := 0 } := rfl

@[simp] theorem after_reset_out (s : State) : (after .reset s).out = { s.out with regRdata := 0 } := rfl

/-- Only READ, NOP and RESET drive `reg_rdata` (46_host_access.md R240, R246; 70_reset_and_hazards.md R281). -/
theorem after_out {i : Instr} (hread : ∀ a en, i ≠ .read a en) (hnop : i ≠ .nop) (hreset : i ≠ .reset) (s : State) :
    (after i s).out = s.out := by
  cases i with
  | read a en => exact absurd rfl (hread a en)
  | nop => exact absurd rfl hnop
  | reset => exact absurd rfl hreset
  | edge | start | snapClose | analyze | extract | classify | sync | decode | stats | verdict | commit =>
    simp only [after]
    split <;> simp

@[simp] theorem after_edge_out (ts : Ts) (lvl en : Bool) (s : State) : (after (.edge ts lvl en) s).out = s.out :=
  after_out (by simp) (by simp) (by simp) s

@[simp] theorem after_start_out (s : State) : (after .start s).out = s.out :=
  after_out (by simp) (by simp) (by simp) s

@[simp] theorem after_snapClose_out (s : State) : (after .snapClose s).out = s.out :=
  after_out (by simp) (by simp) (by simp) s

@[simp] theorem after_analyze_out (s : State) : (after .analyze s).out = s.out :=
  after_out (by simp) (by simp) (by simp) s

/-- The internal operation drives nothing. -/
theorem out_foldl_internalOps (p : Phase) (d : Draw) (s : State) :
    ((internalOps p d).foldl (fun s i => after i s) s).out = s.out := by
  cases p with
  | idle | reserved => rfl
  | snap => cases h : d.close <;> simp [h]
  | analyze => cases h : d.commit <;> simp [h]

/-- Of a bundle's operations without reset, READ comes first and reads the state they start from; NOP drives 0 as the start of the
cycle does. -/
theorem out_foldl_ops {b : Bundle} (hr : b.rst = false) {s : State} (hs : s.out.regRdata = 0) :
    (b.ops.foldl (fun s i => after i s) s).out =
      { s.out with regRdata := if b.regRd then readReg s b.regAddr b.capEn else 0 } := by
  have hedge : ∀ u : State, ((if b.edgeValid then [.edge b.edgeTs b.edgeLvl b.capEn] else []).foldl
      (fun s i => after i s) u).out = u.out := by
    intro u
    split <;> simp
  have hstart : ∀ u : State, ((if b.start then [.start] else []).foldl (fun s i => after i s) u).out = u.out := by
    intro u
    split <;> simp
  rw [Bundle.ops_eq, if_neg (by simp [hr])]
  split
  · simp only [List.foldl_append, hstart, hedge]
    split
    · rfl
    · simp [← hs]
  · next hno =>
    have hrd : b.regRd = false := by simp_all
    simp [hrd]

/-- The outputs of a cycle (30_encoding.md R71). -/
theorem step_out {s t : State} (h : step s = .next t) :
    t.out = { busy := s.busy
              regRdata := if (nextBundle s).regRd = true ∧ (nextBundle s).rst = false then
                  readReg s (nextBundle s).regAddr (nextBundle s).capEn
                else 0 } := by
  rw [(step_next h).2, cycleOps]
  cases hr : (nextBundle s).rst with
  | true => simp [Bundle.ops_of_rst hr]
  | false =>
    simp only [Bool.false_eq_true, if_false, List.foldl_append, out_foldl_internalOps]
    rw [out_foldl_ops hr (by simp)]
    simp

/-- Settles O47: the start of the cycle drives `busy`, and READ or nothing `reg_rdata`. -/
theorem outputsShowTheStartOfTheCycle : Obligations.OutputsShowTheStartOfTheCycle := by
  intro s t h
  rw [step_out h]
  exact ⟨rfl, rfl⟩

end Sys2Proof.Machine
end

section
/-! PROOFS. Stimulus scripts (30_encoding.md R85, R86): the bundle of a line, the end of a WAIT, and the cycles of a RUN. -/

namespace Sys2Proof.Machine

open Sys2Proof

/-! ## The bundle of a line -/

/-- A control bit that the statements `g a`, and no others, set is set exactly when one of them is in the line. -/
theorem foldl_apply_bit {α : Type} {f : Bundle → Bool} {g : α → Stmt}
    (h : ∀ b x, f (Stmt.apply b x) = true ↔ f b = true ∨ ∃ a, x = g a) (b : Bundle) (stmts : List Stmt) :
    f (stmts.foldl Stmt.apply b) = true ↔ f b = true ∨ ∃ a, g a ∈ stmts := by
  induction stmts generalizing b with
  | nil => simp
  | cons x xs ih => simp only [List.foldl_cons, ih, h, List.mem_cons, exists_or, or_assoc, eq_comm (a := x)]

/-- A field that one statement sets to `v`, and no other statement of the line sets to anything else, is `v`. -/
theorem foldl_apply_field {α : Type} {f : Bundle → α} {v : α} {x : Stmt} {stmts : List Stmt} (hx : x ∈ stmts)
    (hset : ∀ b, f (Stmt.apply b x) = v) (hkeep : ∀ y ∈ stmts, ∀ b, f b = v → f (Stmt.apply b y) = v) (b : Bundle) :
    f (stmts.foldl Stmt.apply b) = v := by
  obtain ⟨pre, post, rfl⟩ := List.append_of_mem hx
  rw [List.foldl_append, List.foldl_cons]
  exact List.foldlRecOn (motive := fun c => f c = v) post _ (hset _) fun c hc y hy => hkeep y (by simp [hy]) c hc

section Line

variable (en : Bool) (stmts : List Stmt)

theorem lineBundle_capEn : (lineBundle en stmts).capEn = en :=
  List.foldlRecOn (motive := fun b : Bundle => b.capEn = en) stmts _ rfl fun b hb x _ => by cases x <;> exact hb

theorem lineBundle_bit {α : Type} {f : Bundle → Bool} {g : α → Stmt} (hidle : f { Bundle.idle with capEn := en } = false)
    (h : ∀ b x, f (Stmt.apply b x) = true ↔ f b = true ∨ ∃ a, x = g a) :
    f (lineBundle en stmts) = true ↔ ∃ a, g a ∈ stmts := by
  rw [lineBundle, foldl_apply_bit h, hidle]
  simp

theorem lineBundle_rst : (lineBundle en stmts).rst = true ↔ .reset ∈ stmts :=
  (lineBundle_bit en stmts (g := fun _ : Unit => .reset) rfl fun b x => by cases x <;> simp [Stmt.apply]).trans (by simp)

theorem lineBundle_edgeValid : (lineBundle en stmts).edgeValid = true ↔ ∃ ts lvl, .edge ts lvl ∈ stmts :=
  (lineBundle_bit en stmts (g := fun e : Ts × Bool => .edge e.1 e.2) rfl fun b x => by cases x <;> simp [Stmt.apply]).trans
    Prod.exists

theorem lineBundle_start : (lineBundle en stmts).start = true ↔ .start ∈ stmts :=
  (lineBundle_bit en stmts (g := fun _ : Unit => .start) rfl fun b x => by cases x <;> simp [Stmt.apply]).trans (by simp)

theorem lineBundle_regRd : (lineBundle en stmts).regRd = true ↔ ∃ a, .read a ∈ stmts :=
  lineBundle_bit en stmts (g := Stmt.read) rfl fun b x => by cases x <;> simp [Stmt.apply]

variable {en stmts}

/-- The edge of a line with one edge. -/
theorem lineBundle_edge {ts : Ts} {lvl : Bool} (hx : .edge ts lvl ∈ stmts)
    (huniq : ∀ ts' lvl', .edge ts' lvl' ∈ stmts → ts' = ts ∧ lvl' = lvl) :
    (lineBundle en stmts).edgeTs = ts ∧ (lineBundle en stmts).edgeLvl = lvl := by
  refine Prod.mk.inj (foldl_apply_field (f := fun b => (b.edgeTs, b.edgeLvl)) hx (fun _ => rfl) (fun y hy b hb => ?_) _)
  cases y with
  | edge ts' lvl' =>
    obtain ⟨rfl, rfl⟩ := huniq ts' lvl' hy
    rfl
  | reset | start | read | nop => exact hb

/-- The address of a line with one read. -/
theorem lineBundle_regAddr {a : RegAddr} (hx : .read a ∈ stmts) (huniq : ∀ a', .read a' ∈ stmts → a' = a) :
    (lineBundle en stmts).regAddr = a := by
  refine foldl_apply_field (f := Bundle.regAddr) hx (fun _ => rfl) (fun y hy b hb => ?_) _
  cases y with
  | read a' => exact huniq a' hy
  | reset | edge | start | nop => exact hb

/-- A line of nothing but NOP drives no control bit. -/
theorem lineBundle_of_nops (h : ∀ x ∈ stmts, x = .nop) : lineBundle en stmts = { Bundle.idle with capEn := en } :=
  List.foldlRecOn (motive := fun b : Bundle => b = { Bundle.idle with capEn := en }) stmts Stmt.apply rfl
    fun _ hb x hx => (congrArg _ (h x hx)).trans hb

end Line

/-! ## One cycle of the host -/

/-- The cycle of a bundle with one operation: the operation, then the internal one. -/
theorem step_placeBundle {s : State} {b : Bundle} {i : Instr} (hops : b.ops = [i]) (hr : b.rst = false)
    (hp : s.phase ≠ .reserved) :
    step (placeBundle s b) = .next
      ((internalOps s.phase (nextDraw s)).foldl (fun s i => after i s) (after i (beginCycle (placeBundle s b)))) := by
  have hb : nextBundle (placeBundle s b) = b := rfl
  have hd : nextDraw (placeBundle s b) = nextDraw s := rfl
  rw [step_eq (by simp [cycleFaults, hp])]
  simp [cycleOps, hb, hd, hr, hops]

theorem ops_lineBundle_start (en : Bool) : (lineBundle en [.start]).ops = [.start] := by
  simp [Bundle.ops_eq, lineBundle, Stmt.apply, Bundle.idle]

theorem ops_readStatus (en : Bool) : (readStatus en).ops = [.read 0x00 en] := by
  simp [Bundle.ops_eq, readStatus, lineBundle, Stmt.apply, Bundle.idle]

/-- BUSY is bit 0 of STATUS (10_state.md R36). -/
theorem statusWord_getLsbD_zero (s : State) (en : Bool) : (statusWord s en).getLsbD 0 = s.busy := by
  have hbit : (statusWord s en).toNat % 2 = s.busy.toNat := by
    have := s.busy.toNat_lt
    rw [statusWord_toNat]
    omega
  rw [BitVec.getLsbD, Nat.testBit_zero, hbit]
  cases s.busy <;> rfl

/-- A poll sees BUSY as it is at the start of its cycle (30_encoding.md R71). -/
theorem sawBusy_of_poll {s t : State} {en : Bool} (h : step (placeBundle s (readStatus en)) = .next t) :
    sawBusy t = s.busy := by
  rw [sawBusy, step_out h]
  exact statusWord_getLsbD_zero s en

theorem runHost_poll_of_idle {s t : State} {en : Bool} (h : step (placeBundle s (readStatus en)) = .next t)
    (hp : s.phase = .idle) (k : Nat) (ms : List HostMove) :
    runHost (k + 1) (.poll (readStatus en) :: ms) s = runHost k ms t := by
  rw [runHost_poll h, sawBusy_of_poll h]
  simp [State.busy, hp]

theorem runHost_poll_of_busy {s t : State} {en : Bool} (h : step (placeBundle s (readStatus en)) = .next t)
    (hp : s.phase ≠ .idle) (k : Nat) (ms : List HostMove) :
    runHost (k + 1) (.poll (readStatus en) :: ms) s = runHost k (.poll (readStatus en) :: ms) t := by
  rw [runHost_poll h, sawBusy_of_poll h]
  simp [State.busy, hp]

/-- A START in IDLE takes the snapshot, and its cycle does nothing else (40_capture.md R111). -/
theorem step_start (en : Bool) {s : State} (hp : s.phase = .idle) :
    step (placeBundle s (lineBundle en [.start])) = .next
      (openSnapshot (beginCycle (placeBundle s (lineBundle en [.start])))) := by
  rw [step_placeBundle (ops_lineBundle_start en) rfl (by simp [hp]), hp]
  exact congrArg _ (if_pos hp)

/-- The state in a cycle that reads STATUS, before the internal operation. -/
def polled (en : Bool) (s : State) : State := after (.read 0x00 en) (beginCycle (placeBundle s (readStatus en)))

@[simp] theorem polled_phase (en : Bool) (s : State) : (polled en s).phase = s.phase := rfl

@[simp] theorem polled_draws (en : Bool) (s : State) : (polled en s).draws = s.draws.tail := rfl

@[simp] theorem polled_cfg (en : Bool) (s : State) : (polled en s).cfg = s.cfg := rfl

@[simp] theorem snapshot_polled (en : Bool) (s : State) : snapshot (polled en s) = snapshot s :=
  snapshot_congr rfl rfl rfl

theorem step_poll (en : Bool) {s : State} (hp : s.phase ≠ .reserved) :
    step (placeBundle s (readStatus en)) = .next
      ((internalOps s.phase (nextDraw s)).foldl (fun s i => after i s) (polled en s)) :=
  step_placeBundle (ops_readStatus en) rfl hp

/-- In phase SNAP the close draw alone decides (40_capture.md R113). -/
theorem step_poll_snap (en : Bool) {s : State} {d : Draw} {ds : List Draw} (hp : s.phase = .snap) (hds : s.draws = d :: ds) :
    step (placeBundle s (readStatus en)) = .next (if d.close then after .snapClose (polled en s) else polled en s) := by
  rw [step_poll en (by simp [hp]), hp, nextDraw_cons hds, internalOps_snap]
  cases d.close <;> rfl

/-- In phase ANALYZE the commit draw alone decides (45_signal_classify.md R230). -/
theorem step_poll_analyze (en : Bool) {s : State} {d : Draw} {ds : List Draw} (hp : s.phase = .analyze)
    (hds : s.draws = d :: ds) :
    step (placeBundle s (readStatus en)) = .next (if d.commit then after .analyze (polled en s) else polled en s) := by
  rw [step_poll en (by simp [hp]), hp, nextDraw_cons hds, internalOps_analyze]
  cases d.commit <;> rfl

/-! ## Waiting for the result -/

/-- The draws close the window in its `nSnap`-th cycle from now, or find it closed if `nSnap = 0`, and commit in the `nAna`-th
cycle after that (40_capture.md R100). -/
structure WindowDraws (nSnap nAna : Nat) (ds : List Draw) : Prop where
  length : nSnap + nAna ≤ ds.length
  close : ∀ k d, ds[k]? = some d → k < nSnap → d.close = decide (k + 1 = nSnap)
  commit : ∀ k d, ds[k]? = some d → nSnap ≤ k → k < nSnap + nAna → d.commit = decide (k + 1 = nSnap + nAna)

/-- A cycle later both are one cycle nearer, and a window found closed stays closed. -/
theorem WindowDraws.tail {n m n' m' : Nat} {d : Draw} {ds : List Draw} (h : WindowDraws n m (d :: ds)) (hn : n' = n - 1)
    (hsum : n' + m' + 1 = n + m) : WindowDraws n' m' ds where
  length := by
    have hlen := h.length
    rw [List.length_cons] at hlen
    omega
  close k e hk hlt := (h.close (k + 1) e hk (by omega)).trans (decide_eq_decide.2 (by omega))
  commit k e hk hle hlt := (h.commit (k + 1) e hk (by omega) (by omega)).trans (decide_eq_decide.2 (by omega))

theorem WindowDraws.exists_cons {n m : Nat} {ds : List Draw} (h : WindowDraws n m ds) (hpos : 0 < n + m) :
    ∃ d ds', ds = d :: ds' :=
  List.exists_cons_of_length_pos (Nat.lt_of_lt_of_le hpos h.length)

theorem WindowDraws.next_close {n m : Nat} {ds : List Draw} (h : WindowDraws (n + 1) m ds) :
    ∃ d ds', ds = d :: ds' ∧ d.close = decide (n = 0) ∧ WindowDraws n m ds' := by
  obtain ⟨d, ds', rfl⟩ := h.exists_cons (by omega)
  exact ⟨d, ds', rfl, by simpa using h.close 0 d rfl (by omega), h.tail rfl (by omega)⟩

theorem WindowDraws.next_commit {m : Nat} {ds : List Draw} (h : WindowDraws 0 (m + 1) ds) :
    ∃ d ds', ds = d :: ds' ∧ d.commit = decide (m = 0) ∧ WindowDraws 0 m ds' := by
  obtain ⟨d, ds', rfl⟩ := h.exists_cons (by omega)
  exact ⟨d, ds', rfl, by simpa using h.commit 0 d rfl (by omega) (by omega), h.tail rfl (by omega)⟩

/-- The host's moves are over after exactly `k` cycles, in phase IDLE with the result `r`. -/
structure EndsAfter (k : Nat) (ms : List HostMove) (s : State) (r : Results) : Prop where
  notBefore : ∀ j, j < k → runHost j ms s = none
  ends : ∃ u, runHost k ms s = some u ∧ u.phase = .idle ∧ u.res = r

/-- One cycle more, whatever move it is of. -/
theorem EndsAfter.of_cycle {k : Nat} {m : HostMove} {ms ms' : List HostMove} {s t : State} {r : Results}
    (ht : EndsAfter k ms' t r) (h : ∀ j, runHost (j + 1) (m :: ms) s = runHost j ms' t) : EndsAfter (k + 1) (m :: ms) s r where
  notBefore j hj := by
    cases j with
    | zero => exact runHost_zero_cons m ms s
    | succ j => rw [h, ht.notBefore j (by omega)]
  ends := by rw [h]; exact ht.ends

theorem endsAfter_idle (en : Bool) {s : State} (hp : s.phase = .idle) : EndsAfter 1 [.poll (readStatus en)] s s.res := by
  have hstep := step_poll en (s := s) (by simp [hp])
  rw [hp] at hstep
  have hend : EndsAfter 0 [] (polled en s) s.res := ⟨fun _ hj => absurd hj (Nat.not_lt_zero _), _, rfl, hp, rfl⟩
  exact hend.of_cycle fun j => runHost_poll_of_idle hstep hp j []

/-- The cycles of the analysis, the commit among them, and the one that reads BUSY = 0. -/
theorem endsAfter_analyze (en : Bool) (m : Nat) {s : State} (hp : s.phase = .analyze) (hd : WindowDraws 0 (m + 1) s.draws) :
    EndsAfter (m + 2) [.poll (readStatus en)] s (windowResults s.cfg (snapshot s)) := by
  induction m generalizing s with
  | zero =>
    obtain ⟨d, ds, hds, hcommit, -⟩ := hd.next_commit
    have hstep := step_poll_analyze en hp hds
    rw [if_pos (by simp [hcommit])] at hstep
    have hres : (after .analyze (polled en s)).res = windowResults s.cfg (snapshot s) := by
      rw [after_analyze_res (s := polled en s) hp, snapshot_polled, polled_cfg]
    rw [← hres]
    exact (endsAfter_idle en (by simp [hp])).of_cycle (runHost_poll_of_busy hstep (by simp [hp]) · [])
  | succ m ih =>
    obtain ⟨d, ds, hds, hcommit, hd'⟩ := hd.next_commit
    have hstep := step_poll_analyze en hp hds
    rw [if_neg (by simp [hcommit])] at hstep
    have ht := ih (s := polled en s) hp (by simpa [hds] using hd')
    rw [snapshot_polled] at ht
    exact ht.of_cycle (runHost_poll_of_busy hstep (by simp [hp]) · [])

/-- The cycles of the window, the one that closes it among them, and those of the analysis. -/
theorem endsAfter_snap (en : Bool) (n m : Nat) {s : State} (hp : s.phase = .snap)
    (hd : WindowDraws (n + 1) (m + 1) s.draws) :
    EndsAfter (n + 1 + (m + 2)) [.poll (readStatus en)] s (windowResults s.cfg (snapshot s)) := by
  induction n generalizing s with
  | zero =>
    obtain ⟨d, ds, hds, hclose, hd'⟩ := hd.next_close
    have hstep := step_poll_snap en hp hds
    rw [if_pos (by simp [hclose])] at hstep
    have hsnap := (after_sameSnapshot (i := .snapClose) (by simp) (by simp) (polled en s)).snapshot_eq
    have hdraws := (after_sameEnvironment .snapClose (polled en s)).draws
    have ht := endsAfter_analyze en m (s := after .snapClose (polled en s)) (by simp [hp]) (by simpa [hdraws, hds] using hd')
    rw [hsnap, snapshot_polled, after_cfg, polled_cfg] at ht
    rw [Nat.add_comm]
    exact ht.of_cycle (runHost_poll_of_busy hstep (by simp [hp]) · [])
  | succ n ih =>
    obtain ⟨d, ds, hds, hclose, hd'⟩ := hd.next_close
    have hstep := step_poll_snap en hp hds
    rw [if_neg (by simp [hclose])] at hstep
    have ht := ih (s := polled en s) hp (by simpa [hds] using hd')
    rw [snapshot_polled] at ht
    rw [Nat.succ_add]
    exact ht.of_cycle (runHost_poll_of_busy hstep (by simp [hp]) · [])

/-- A RUN from IDLE: START copies the ring, and its WAIT takes the window, the analysis and one read more (30_encoding.md R86). -/
theorem endsAfter_run (en : Bool) (n m : Nat) {s : State} (hp : s.phase = .idle)
    (hd : WindowDraws (n + 1) (m + 1) s.draws.tail) :
    EndsAfter (n + 1 + (m + 2) + 1) [.drive (lineBundle en [.start]), .poll (readStatus en)] s
      (windowResults s.cfg (captured s)) := by
  have hring : captured (beginCycle (placeBundle s (lineBundle en [.start]))) = captured s := captured_congr rfl rfl rfl rfl
  have ht := endsAfter_snap en n m (s := openSnapshot (beginCycle (placeBundle s (lineBundle en [.start])))) rfl hd
  rw [snapshot_openSnapshot, hring] at ht
  exact ht.of_cycle (runHost_drive (step_start en hp) · _)

/-! ## The statement -/

/-- Settles O60: the assembler by its equations, a line by the statements in it, a WAIT by what its read shows, and a RUN by
following its draws. -/
theorem scriptsAssemble : Obligations.ScriptsAssemble := by
  refine ⟨fun w en v ts d n stmts ls => ⟨rfl, rfl, rfl, rfl, rfl, rfl, rfl⟩, fun en stmts => ?lines,
    fun s t en k rest h => ⟨fun hp => runHost_poll_of_idle h hp k rest, fun hp => runHost_poll_of_busy h hp k rest⟩,
    fun s en nSnap nAna hp hSnap hAna hlen hclose hcommit => ?run⟩
  case lines =>
    refine ⟨lineBundle_capEn en stmts, lineBundle_rst en stmts, lineBundle_edgeValid en stmts, lineBundle_start en stmts,
      lineBundle_regRd en stmts, fun ts lvl => lineBundle_edge, fun a => lineBundle_regAddr,
      fun h => Bundle.ops_of_rst ((lineBundle_rst en stmts).2 h), fun h => ?_⟩
    rw [lineBundle_of_nops h]
    simp [Bundle.ops_eq, Bundle.idle]
  case run =>
    obtain ⟨n, rfl⟩ := Nat.exists_eq_add_of_le' hSnap
    obtain ⟨m, rfl⟩ := Nat.exists_eq_add_of_le' hAna
    have hd : WindowDraws (n + 1) (m + 1) s.draws.tail := by
      refine ⟨by rw [List.length_tail]; omega, fun k d hk hlt => ?_, fun k d hk hle hlt => ?_⟩
      · exact hclose (k + 1) d (by simpa using hk) (by omega) (by omega)
      · exact hcommit (k + 1) d (by simpa using hk) (by omega) (by omega)
    obtain ⟨hnone, hends⟩ := endsAfter_run en n m hp hd
    exact ⟨fun k hk => hnone k (by omega), hends⟩

end Sys2Proof.Machine
end

section
/-! PROOFS. The capture operations (40_capture.md): EDGE, START and SNAP_CLOSE one by one, the cycle that runs them, and the edges a
snapshot lists after any number of pushes. -/

namespace Sys2Proof.Machine

open Sys2Proof

/-! ## The ring after any number of pushes -/

/-- The ring after the edges `es` were pushed into an empty one (40_capture.md R104): edge `k` lies in slot `k mod C` until the
edge `k + C` overwrites it. Unlike `CaptureInv` it asks nothing of the timestamps, which R115 leaves free. -/
structure Pushed (s : State) (es : List Edge) : Prop where
  legal : s.cfg.Legal
  wptr : s.wptr.toNat = es.length % s.cfg.cap
  count : s.count.toNat = min es.length s.cfg.cap
  slot : ∀ k e, es[k]? = some e → es.length ≤ k + s.cfg.cap → capRead s (k % s.cfg.cap) = e

theorem CaptureInv.pushed_nil {s : State} (hi : CaptureInv s) (h : s.count = 0) : Pushed s [] where
  legal := hi.legal
  wptr := by
    obtain ⟨hcap, -⟩ := hi.legal
    have hcount : s.count.toNat = 0 := by simp [h]
    rw [hi.wptrEq (by omega), hcount]
    exact (Nat.zero_mod _).symm
  count := by simp [h]
  slot := by simp

/-- Slots of pushed edges less than `C` apart differ. -/
theorem mod_ne_mod_of_lt {k n c : Nat} (hk : k < n) (hn : n < k + c) : k % c ≠ n % c := by
  intro h
  have hdvd : c ∣ n - k := (Nat.modEq_iff_dvd' hk.le).1 h
  have := Nat.le_of_dvd (by omega) hdvd
  omega

theorem capRead_append_wptr (s : State) (e : Edge) : capRead (append s e) s.wptr.toNat = e := by
  simp [capRead, Memory.read_write_same]

/-- An append leaves every slot but `wptr` as it is (20_memory.md R51). -/
theorem capRead_append_of_ne (s : State) (e : Edge) {i : Nat} (h : i ≠ s.wptr.toNat) :
    capRead (append s e) i = capRead s i := by
  simp [capRead, Memory.read_write_other _ _ _ _ h]

theorem Pushed.append {s : State} {es : List Edge} (h : Pushed s es) (e : Edge) : Pushed (append s e) (es ++ [e]) where
  legal := h.legal
  wptr := by
    obtain ⟨hcap, hmax, -⟩ := h.legal
    have hlt := Nat.mod_lt (es.length + 1) hcap
    rw [append_wptr, append_cfg, h.wptr, Nat.mod_add_mod, BitVec.toNat_ofNat, List.length_append, List.length_singleton]
    exact Nat.mod_eq_of_lt (by omega)
  count := by
    obtain ⟨-, hmax, -⟩ := h.legal
    rw [append_count, append_cfg, h.count, BitVec.toNat_ofNat, List.length_append, List.length_singleton]
    omega
  slot k x hx hk := by
    rw [List.length_append, List.length_singleton, append_cfg] at hk
    rw [append_cfg]
    rcases lt_or_ge k es.length with hlt | hge
    · rw [List.getElem?_append_left hlt] at hx
      have hne : k % s.cfg.cap ≠ s.wptr.toNat := h.wptr ▸ mod_ne_mod_of_lt hlt hk
      rw [capRead_append_of_ne s e hne]
      exact h.slot k x hx (by omega)
    · rw [List.getElem?_append_right hge, List.getElem?_singleton] at hx
      obtain ⟨hz, rfl⟩ := Option.ite_some_none_eq_some.1 hx
      obtain rfl : k = es.length := by omega
      rw [← h.wptr, capRead_append_wptr]

theorem Pushed.pushAll {s : State} (h : Pushed s []) (es : List Edge) : Pushed (pushAll s es) es := by
  induction es using List.reverseRecOn with
  | nil => exact h
  | append_singleton es e ih =>
    rw [Machine.pushAll, List.foldl_concat]
    exact ih.append e

/-- The `j`-th oldest edge of the ring is the one pushed `j` after those that were overwritten. -/
theorem Pushed.ringSlot_eq {s : State} {es : List Edge} (h : Pushed s es) (j : Nat) :
    ringSlot s j = (es.length - s.cfg.cap + j) % s.cfg.cap := by
  have hsum : (es.length : Int) + (j - (min es.length s.cfg.cap : Nat)) = (es.length - s.cfg.cap + j : Nat) := by omega
  rw [ringSlot, h.wptr, h.count, Int.natCast_emod, sub_add_eq_add_sub, add_sub_assoc, Int.emod_add_emod, hsum,
    ← Int.natCast_emod, Int.toNat_natCast]

theorem Pushed.captured_eq {s : State} {es : List Edge} (h : Pushed s es) :
    captured s = es.drop (es.length - s.cfg.cap) := by
  have hcount := h.count
  apply List.ext_getElem
  · rw [captured_length, List.length_drop]
    omega
  · intro j hj hj'
    rw [captured_length] at hj
    rw [List.length_drop] at hj'
    simp only [captured, List.getElem_map, List.getElem_range, List.getElem_drop, h.ringSlot_eq]
    exact h.slot _ _ (List.getElem?_eq_getElem (by omega)) (by omega)

@[simp] theorem pushAll_cfg (s : State) (es : List Edge) : (pushAll s es).cfg = s.cfg :=
  List.foldlRecOn (motive := fun u : State => u.cfg = s.cfg) es append rfl fun _ hu _ _ => hu

/-- Settles O10: the snapshot is the ring's list, and the ring is known slot by slot after any number of pushes. -/
theorem snapshotListsTheMostRecentEdges : Obligations.SnapshotListsTheMostRecentEdges := by
  intro s es hi h0
  have hlist : snapshot (openSnapshot (pushAll s es)) = es.drop (es.length - s.cfg.cap) := by
    rw [snapshot_openSnapshot, ((hi.pushed_nil h0).pushAll es).captured_eq, pushAll_cfg]
  refine ⟨hlist, ?_⟩
  rw [hlist, List.length_drop]
  omega

/-! ## EDGE -/

/-- The debounce test with its bound written out: a difference of exactly 20000 passes (40_capture.md R103). -/
theorem debounced_iff (s : State) (t : Ts) :
    debounced s t = true ↔ s.lastValid = true ∧ wrapdiff s.cfg.width t s.lastTs < 20000 := by
  rw [debounced, Bool.and_eq_true, decide_eq_true_iff, tDeb]

/-- EDGE drops its edge or appends it. -/
theorem after_edge_cases (ts : Ts) (lvl en : Bool) (s : State) :
    after (.edge ts lvl en) s = s
      ∨ after (.edge ts lvl en) s = append s { ts := zextTs s.cfg.width ts, lvl := lvl } :=
  ite_eq_or_eq _ _ _

/-- Settles O7: the two branches of `after`, whose debounce test is the rule's comparison. -/
theorem edgeOperation : Obligations.EdgeOperation := by
  intro s ts lvl en
  rw [exec_eq, ← debounced_iff]
  exact ⟨fun h => congrArg _ (if_pos h), fun h => congrArg _ (if_neg h)⟩

/-- Settles O8: an edge that is dropped changes nothing, and one that is appended writes slot `wptr` alone. -/
theorem edgeFrame : Obligations.EdgeFrame := by
  intro s t ts lvl en h
  obtain rfl := exec_next h
  obtain h | h := after_edge_cases ts lvl en s <;> rw [h]
  · exact ⟨rfl, fun _ _ => rfl, fun _ => rfl⟩
  · exact ⟨rfl, fun _ hi => capRead_append_of_ne s _ hi, snapRead_congr (append_cfg s _) (append_snapMem s _)⟩

/-! ## START and SNAP_CLOSE -/

theorem after_start_of_idle {s : State} (h : s.phase = .idle) : after .start s = openSnapshot s := if_pos h

theorem after_start_of_ne_idle {s : State} (h : s.phase ≠ .idle) : after .start s = s := if_neg h

/-- Settles O11: `snapRead_openSnapshot` says what each slot of the copy holds. -/
theorem startCopiesTheRing : Obligations.StartCopiesTheRing := by
  intro s
  rw [exec_eq]
  refine ⟨fun h => by rw [after_start_of_ne_idle h], fun h => ⟨_, rfl, ?_⟩⟩
  rw [after_start_of_idle h]
  refine ⟨rfl, rfl, fun j hj => ?_, fun j hj => ?_, capRead_congr rfl rfl, rfl⟩
  · rw [snapRead_openSnapshot, if_pos hj, ringSlot]
  · rw [snapRead_openSnapshot, if_neg hj.not_gt]

/-- Settles O12: the branch of SNAP_CLOSE in its own phase. -/
theorem snapCloseOpensTheAnalysis : Obligations.SnapCloseOpensTheAnalysis := fun s h =>
  (exec_eq .snapClose s).trans (congrArg _ (if_pos h))

/-! ## A cycle in the open window -/

theorem SameCapture.trans {s t u : State} (h : SameCapture s t) (h' : SameCapture t u) : SameCapture s u where
  cfg := h'.cfg.trans h.cfg
  capMem := h'.capMem.trans h.capMem
  wptr := h'.wptr.trans h.wptr
  count := h'.count.trans h.count
  lastTs := h'.lastTs.trans h.lastTs
  lastValid := h'.lastValid.trans h.lastValid

/-- In phase SNAP an edge is dropped (40_capture.md R102), so RESET alone writes the capture state. -/
theorem after_sameCapture_of_snap {i : Instr} (hr : i ≠ .reset) {s : State} (hp : s.phase = .snap) :
    SameCapture s (after i s) := by
  cases i with
  | edge ts lvl en =>
    have hdrop : after (.edge ts lvl en) s = s := if_pos (.inr (.inl hp))
    rw [hdrop]
    exact .refl s
  | _ => exact after_sameCapture hr (by simp) s

theorem reset_notMem_ops {b : Bundle} (hr : b.rst = false) : Instr.reset ∉ b.ops := by
  rw [Bundle.ops_eq, if_neg (by simp [hr])]
  split <;> simp

/-- The host's operations leave the window open: START is ignored in it (40_capture.md R116). -/
theorem after_op_phase_of_snap {b : Bundle} (hr : b.rst = false) {i : Instr} (hi : i ∈ b.ops) {s : State}
    (hp : s.phase = .snap) : (after i s).phase = .snap := by
  have hmem := (List.mem_filter.1 hi).1
  simp only [List.mem_cons, List.not_mem_nil, or_false] at hmem
  obtain rfl | rfl | rfl | rfl | rfl := hmem
  · exact absurd hi (reset_notMem_ops hr)
  all_goals simp [hp]

/-- The host's operations of a cycle find the window open one after another, and leave it open. -/
theorem foldl_ops_of_snap {b : Bundle} (hr : b.rst = false) {s : State} (hp : s.phase = .snap) :
    SameCapture s (b.ops.foldl (fun s i => after i s) s) ∧ (b.ops.foldl (fun s i => after i s) s).phase = .snap := by
  refine List.foldlRecOn (motive := fun u => SameCapture s u ∧ u.phase = .snap) _ _ ⟨.refl s, hp⟩ fun u hu i hi => ?_
  obtain ⟨hsame, hopen⟩ := hu
  have hir : i ≠ .reset := fun h => reset_notMem_ops hr (h ▸ hi)
  exact ⟨hsame.trans (after_sameCapture_of_snap hir hopen), after_op_phase_of_snap hr hi hopen⟩

/-- Settles O14: the host's operations drop their edge, and SNAP_CLOSE, which may come last, moves the phase alone. -/
theorem openWindowDropsEdges : Obligations.OpenWindowDropsEdges := by
  intro s t hp hr h
  have hstep : SameCapture s t := by
    obtain ⟨hsame, hopen⟩ := foldl_ops_of_snap hr ((beginCycle_phase s).trans hp)
    have hops := (beginCycle_sameCapture s).trans hsame
    rw [(step_next h).2, cycleOps, hr, hp, internalOps_snap]
    simp only [Bool.false_eq_true, if_false, List.foldl_append]
    split
    · exact hops.trans (after_sameCapture_of_snap (i := .snapClose) (by simp) hopen)
    · exact hops
  exact ⟨hstep.capMem, hstep.wptr, hstep.count, hstep.lastTs, hstep.lastValid⟩

/-! ## The operations of a step -/

theorem step_eq_runOps {s : State} (h : cycleFaults s = false) : step s = runOps (cycleOps s) (beginCycle s) := by
  simp [step, h]

theorem step_of_rst {s : State} (hr : (nextBundle s).rst = true) : step s = runOps [.reset] (beginCycle s) := by
  rw [step_eq_runOps (by simp [cycleFaults, hr]), cycleOps, if_pos hr, Bundle.ops_of_rst hr]

theorem step_of_not_rst {s : State} (hr : (nextBundle s).rst = false) (hp : s.phase ≠ .reserved) :
    step s = runOps ((nextBundle s).ops ++ internalOps s.phase (nextDraw s)) (beginCycle s) := by
  rw [step_eq_runOps (by simp [cycleFaults, hp]), cycleOps, if_neg (by simp [hr])]

theorem runOps_singleton (i : Instr) (s : State) : runOps [i] s = exec i s := by
  rw [runOps_eq, exec_eq]
  rfl

/-- Settles O5: a reset cycle apart, the operations are the bundle's and then the internal one of the phase. -/
theorem stepRunsTheDecodedOperations : Obligations.StepRunsTheDecodedOperations := by
  intro s b rest hs
  obtain rfl := nextBundle_cons hs
  have hidle : (nextBundle s).rst = false → s.phase = .idle → step s = runOps (nextBundle s).ops (beginCycle s) :=
    fun hr hp => by rw [step_of_not_rst hr (by simp [hp]), hp, internalOps_idle, List.append_nil]
  refine ⟨step_of_rst, hidle, fun hr hp => ?_, fun hr hp => ?_, fun i hi hp => ?_, ?_⟩
  · rw [step_of_not_rst hr (by simp [hp]), hp, internalOps_snap]
  · rw [step_of_not_rst hr (by simp [hp]), hp, internalOps_analyze]
  · rw [← runOps_singleton, ← hi]
    cases hr : (nextBundle s).rst with
    | true => rw [step_of_rst hr, Bundle.ops_of_rst hr]
    | false => exact hidle hr hp
  · simp only [beginCycle, State.busy, hs, List.tail_cons]

end Sys2Proof.Machine
end

section
/-! PROOFS. Stage 1, EXTRACT (41_pulse_extract.md): the difference of true times, the pulses as the closed low intervals of a
snapshot, the constructed durations, and the rising-edge lists. -/

namespace Sys2Proof.Machine

open Sys2Proof

/-! ## The difference of true times -/

/-- R131: the timestamps keep true times modulo `2^w`, and so does the difference. -/
theorem wrapdiff_tsAt_dvd {w : Nat} (hw : 1 ≤ w) (hw' : w ≤ 32) (tb ta : Int) :
    (2 ^ w : Int) ∣ wrapdiff w (tsAt w tb) (tsAt w ta) - (tb - ta) := by
  obtain ⟨m, rfl⟩ := Nat.exists_eq_add_of_le' hw
  obtain ⟨-, -, hsext⟩ := sext_range m ((((tsAt (m + 1) tb).toNat : Int) - ((tsAt (m + 1) ta).toNat : Int)) % 2 ^ (m + 1))
  have hmod : (2 ^ (m + 1) : Int) ∣
      (((tsAt (m + 1) tb).toNat : Int) - ((tsAt (m + 1) ta).toNat : Int)) % 2 ^ (m + 1) - (tb - ta) := by
    rw [tsAt_toNat hw', tsAt_toNat hw', ← Int.sub_emod, ← Int.neg_sub, Int.dvd_neg]
    exact Int.dvd_self_sub_emod
  simpa only [wrapdiff, sub_add_sub_cancel] using Int.dvd_add hsext hmod

/-- R131: two numbers in the range of `w`-bit two's complement that agree modulo `2^w` are equal. -/
theorem wrapdiff_tsAt_eq_iff {w : Nat} (hw : 1 ≤ w) (hw' : w ≤ 32) (tb ta : Int) :
    wrapdiff w (tsAt w tb) (tsAt w ta) = tb - ta ↔ -(2 ^ (w - 1)) ≤ tb - ta ∧ tb - ta < 2 ^ (w - 1) := by
  have hrange := wrapdiff_range hw (tsAt w tb) (tsAt w ta)
  refine ⟨fun h => h ▸ hrange, fun h => ?_⟩
  have htwice : (2 : Int) ^ w = 2 * 2 ^ (w - 1) := (mul_pow_sub_one (by omega) 2).symm
  refine sub_eq_zero.1 (Int.eq_zero_of_abs_lt_dvd (wrapdiff_tsAt_dvd hw hw' tb ta) ?_)
  rw [abs_lt]
  omega

/-- Settles O16: `W` lies between 22 and 32. -/
theorem wrapdiffIsTheTrueDifferenceInRange : Obligations.WrapdiffIsTheTrueDifferenceInRange := by
  intro c ta tb hc
  obtain ⟨-, -, hlo, hhi⟩ := hc
  have hw : 1 ≤ c.width := by omega
  exact ⟨wrapdiff_range hw _ _, wrapdiff_tsAt_eq_iff hw hhi tb ta, wrapdiff_tsAt_dvd hw hhi tb ta⟩

/-! ## The patterns of the matcher -/

/-- The edges the matcher and `risingT` stop at: no pair is left. -/
theorem length_le_one_of_not_cons_cons {es : List Edge} (h : ∀ a b rest, es = a :: b :: rest → False) : es.length ≤ 1 := by
  match es with
  | [] => exact Nat.zero_le 1
  | [_] => exact le_rfl
  | a :: b :: rest => exact (h a b rest rfl).elim

/-- A pair of edges that neither falls nor rises stays at its level. -/
theorem level_eq_of_no_change : ∀ a b : Bool, ¬ (a && !b) = true → ¬ (!a && b) = true → a = b := by decide

/-! ## Constructed durations -/

/-- A low duration in range is recovered from the timestamps at its two ends, wherever it lies. -/
theorem wrapdiff_tsAt_add {w : Nat} (hw : 1 ≤ w) (hw' : w ≤ 32) (t : Int) {d : Nat} (hd : d ≤ 2 ^ (w - 1) - 1) :
    wrapdiff w (tsAt w (t + d)) (tsAt w t) = d := by
  have hpos : 0 < 2 ^ (w - 1) := Nat.two_pow_pos _
  have hlt : (d : Int) < 2 ^ (w - 1) := by exact_mod_cast (by omega : d < 2 ^ (w - 1))
  have h := (wrapdiff_tsAt_eq_iff hw hw' (t + d) t).2 ⟨by omega, by omega⟩
  omega

/-- R133 on a falling edge and the rising edge that follows it: one pulse, kept when its difference is positive. -/
theorem extractFrom_pulse {w : Nat} {t0 t1 t2 : Ts} (op : Option Ts) (rest : List Edge) (h : 0 < wrapdiff w t2 t1) :
    extractFrom w op ({ ts := t0, lvl := true } :: { ts := t1, lvl := false } :: { ts := t2, lvl := true } :: rest) =
      { start := t1, dur := wrapdiff w t2 t1 } :: extractFrom w none ({ ts := t2, lvl := true } :: rest) := by
  simp [extractFrom, h]

/-- A falling edge left open at the end adds no pulse. -/
theorem extractFrom_open_end (w : Nat) (op : Option Ts) (e : Edge) {last : List Edge}
    (h : last = [] ∨ ∃ ts, last = [{ ts := ts, lvl := false }]) : extractFrom w op (e :: last) = [] := by
  obtain rfl | ⟨ts, rfl⟩ := h <;> cases hl : e.lvl <;> simp [extractFrom, hl]

/-- R138, from any high edge on: each round closes its pulse, and the next begins high again. -/
theorem map_dur_extractFrom_alternating {w : Nat} (hw : 1 ≤ w) (hw' : w ≤ 32) {last : List Edge}
    (hlast : last = [] ∨ ∃ ts, last = [{ ts := ts, lvl := false }]) (hd : List (Nat × Nat)) (t : Int)
    (hdur : ∀ p ∈ hd, 1 ≤ p.2 ∧ p.2 ≤ 2 ^ (w - 1) - 1) :
    (extractFrom w none ({ ts := tsAt w t, lvl := true } :: alternating w t hd ++ last)).map (fun p => p.dur)
      = hd.map fun p => (p.2 : Int) := by
  induction hd generalizing t with
  | nil => simp [alternating, extractFrom_open_end w none _ hlast]
  | cons p hd ih =>
    obtain ⟨h, d⟩ := p
    obtain ⟨hd1, hd2⟩ := hdur (h, d) List.mem_cons_self
    have hwd : wrapdiff w (tsAt w (t + h + d)) (tsAt w (t + h)) = d := wrapdiff_tsAt_add hw hw' (t + h) hd2
    have ih := ih (t + h + d) fun q hq => hdur q (List.mem_cons_of_mem _ hq)
    simp only [alternating, List.cons_append, List.map_cons] at hd1 ih ⊢
    rw [extractFrom_pulse _ _ (by omega), List.map_cons, ih, hwd]

/-- Settles O18, by induction on the durations. -/
theorem extractionRecoversDurations : Obligations.ExtractionRecoversDurations := by
  intro c t hd last hc hdur hlast
  obtain ⟨-, -, hlo, hhi⟩ := hc
  exact map_dur_extractFrom_alternating (by omega) hhi hlast hd t hdur

/-! ## Low intervals of a snapshot -/

/-- At edge `i` the signal is low, and has been since it fell at edge `o`. -/
def OpenLow (es : List Edge) (i o : Nat) : Prop :=
  1 ≤ o ∧ o ≤ i ∧ levelAt es (o - 1) = some true ∧ ∀ k, k ≤ i → o ≤ k → levelAt es k = some false

section Intervals

variable {es : List Edge} {i o : Nat}

theorem not_openLow_zero : ¬ OpenLow es 0 o := fun h => absurd (Nat.le_trans h.1 h.2.1) (by decide)

theorem OpenLow.level (h : OpenLow es i o) : levelAt es i = some false := h.2.2.2 i le_rfl h.2.1

theorem not_openLow_of_high (h : levelAt es i = some true) : ¬ OpenLow es i o :=
  fun ho => by simpa [h] using ho.level

/-- A low edge after a high edge opens an interval of its own. -/
theorem openLow_succ_of_fall (h : levelAt es i = some true) (h' : levelAt es (i + 1) = some false) :
    OpenLow es (i + 1) o ↔ o = i + 1 := by
  constructor
  · rintro ⟨-, hle, -, hlow⟩
    by_contra hne
    simpa [h] using hlow i (Nat.le_succ i) (by omega)
  · rintro rfl
    refine ⟨by omega, le_rfl, h, fun k hk hk' => ?_⟩
    rwa [Nat.le_antisymm hk hk']

/-- A low edge after a low edge keeps the interval open that was open. -/
theorem openLow_succ_of_low (h : levelAt es i = some false) (h' : levelAt es (i + 1) = some false) :
    OpenLow es (i + 1) o ↔ OpenLow es i o := by
  constructor
  · rintro ⟨h1, hle, hhigh, hlow⟩
    have hne : o ≠ i + 1 := by
      rintro rfl
      simp [h] at hhigh
    exact ⟨h1, by omega, hhigh, fun k hk => hlow k (by omega)⟩
  · rintro ⟨h1, hle, hhigh, hlow⟩
    refine ⟨h1, by omega, hhigh, fun k hk hk' => ?_⟩
    obtain hk | rfl := Nat.le_or_eq_of_le_succ hk
    · exact hlow k hk hk'
    · exact h'

/-- A closed low interval is an open one that meets a high edge. -/
theorem closedLow_succ : ClosedLow es o (i + 1) ↔ OpenLow es i o ∧ levelAt es (i + 1) = some true := by
  simp only [ClosedLow, OpenLow, Nat.lt_succ_iff, and_assoc]

theorem ClosedLow.lt_length {cl : Nat} (h : ClosedLow es o cl) : cl < es.length := by
  obtain ⟨-, -, -, -, hcl⟩ := h
  by_contra hge
  simp [levelAt, List.getElem?_eq_none (Nat.le_of_not_lt hge)] at hcl

end Intervals

/-! ## The pulses are the closed low intervals -/

/-- The closed low intervals that give a pulse: those of positive length (R134). -/
def KeptLow (w : Nat) (es : List Edge) (o cl : Nat) : Prop :=
  ClosedLow es o cl ∧ ∃ a b, tsOf es o = some a ∧ tsOf es cl = some b ∧ 0 < wrapdiff w b a

/-- The pulse of a pair of edges: it starts at the first and lasts to the second. -/
def IsPulseOf (w : Nat) (es : List Edge) (p : Nat × Nat) (q : Pulse) : Prop :=
  tsOf es p.1 = some q.start ∧ ∃ b, tsOf es p.2 = some b ∧ q.dur = wrapdiff w b q.start

/-- The matcher's open timestamp is the one of the interval open at edge `i`, and it has none when none is open. -/
def TracksOpen (es : List Edge) (i : Nat) : Option Ts → Prop
  | none => ∀ o, ¬ OpenLow es i o
  | some t => ∃ f, tsOf es f = some t ∧ ∀ o, OpenLow es i o ↔ o = f

/-- `ps` are the pulses of `pairs`, which are the kept intervals that close after edge `i`, in order. -/
structure PulsesAfter (w : Nat) (es : List Edge) (i : Nat) (pairs : List (Nat × Nat)) (ps : List Pulse) : Prop where
  sorted : (pairs.map fun p => p.2).Pairwise (fun i j => i < j)
  mem : ∀ o cl, (o, cl) ∈ pairs ↔ i < cl ∧ KeptLow w es o cl
  pulses : List.Forall₂ (IsPulseOf w es) pairs ps

section Matcher

variable {w : Nat} {es : List Edge} {i : Nat} {pairs : List (Nat × Nat)} {ps : List Pulse}

/-- Nothing is kept at edge `i + 1`. -/
theorem PulsesAfter.skip (h : PulsesAfter w es (i + 1) pairs ps) (hno : ∀ o, ¬ KeptLow w es o (i + 1)) :
    PulsesAfter w es i pairs ps where
  sorted := h.sorted
  mem o cl := by
    rw [h.mem]
    refine and_congr_left fun hk => ?_
    have hne : cl ≠ i + 1 := by
      rintro rfl
      exact hno o hk
    omega
  pulses := h.pulses

/-- The interval that opened at `f` closes and is kept at edge `i + 1`. -/
theorem PulsesAfter.cons (h : PulsesAfter w es (i + 1) pairs ps) {f : Nat} {q : Pulse}
    (hkept : ∀ o, KeptLow w es o (i + 1) ↔ o = f) (hq : IsPulseOf w es (f, i + 1) q) :
    PulsesAfter w es i ((f, i + 1) :: pairs) (q :: ps) where
  sorted := by
    rw [List.map_cons, List.pairwise_cons]
    refine ⟨fun j hj => ?_, h.sorted⟩
    obtain ⟨⟨o, cl⟩, hp, rfl⟩ := List.mem_map.1 hj
    exact ((h.mem o cl).1 hp).1
  mem o cl := by
    rw [List.mem_cons, Prod.mk.injEq, h.mem]
    constructor
    · rintro (⟨rfl, rfl⟩ | ⟨hlt, hk⟩)
      · exact ⟨Nat.lt_succ_self i, (hkept o).2 rfl⟩
      · exact ⟨by omega, hk⟩
    · rintro ⟨hlt, hk⟩
      obtain rfl | hgt := Nat.eq_or_lt_of_le (Nat.succ_le_of_lt hlt)
      · exact .inl ⟨(hkept o).1 hk, rfl⟩
      · exact .inr ⟨hgt, hk⟩
  pulses := .cons hq h.pulses

/-- No interval closes after the last edge. -/
theorem PulsesAfter.nil (h : es.length ≤ i + 1) : PulsesAfter w es i [] [] where
  sorted := .nil
  mem o cl := by
    refine ⟨fun hp => absurd hp List.not_mem_nil, fun ⟨hlt, hk⟩ => ?_⟩
    have := hk.1.lt_length
    omega
  pulses := .nil

theorem not_keptLow_of_not_openLow (h : ∀ o, ¬ OpenLow es i o) (o : Nat) : ¬ KeptLow w es o (i + 1) :=
  fun hk => h o (closedLow_succ.1 hk.1).1

theorem not_keptLow_of_low (h : levelAt es (i + 1) = some false) (o : Nat) : ¬ KeptLow w es o (i + 1) :=
  fun hk => by simpa [h] using (closedLow_succ.1 hk.1).2

/-- A rising edge at `i + 1` closes the interval open at `i`, and keeps it when its difference is positive. -/
theorem keptLow_succ_iff {f : Nat} {a b : Ts} (hopen : ∀ o, OpenLow es i o ↔ o = f) (hf : tsOf es f = some a)
    (hb : tsOf es (i + 1) = some b) (hhigh : levelAt es (i + 1) = some true) (o : Nat) :
    KeptLow w es o (i + 1) ↔ o = f ∧ 0 < wrapdiff w b a := by
  simp only [KeptLow, closedLow_succ, hopen, hhigh, and_true, hb, Option.some.injEq]
  refine and_congr_right ?_
  rintro rfl
  simp [hf]

/-- The edges `i` and `i + 1` of a snapshot, from what it lists from `i` on. -/
theorem edges_of_drop {a b : Edge} {rest : List Edge} (h : es.drop i = a :: b :: rest) :
    levelAt es i = some a.lvl ∧ levelAt es (i + 1) = some b.lvl ∧ tsOf es (i + 1) = some b.ts
      ∧ es.drop (i + 1) = b :: rest := by
  have hnext : es.drop (i + 1) = b :: rest := by rw [← List.tail_drop, h, List.tail_cons]
  have hb : es[i + 1]? = some b := by rw [← List.head?_drop, hnext, List.head?_cons]
  have ha : es[i]? = some a := by rw [← List.head?_drop, h, List.head?_cons]
  exact ⟨congrArg _ ha, congrArg _ hb, congrArg _ hb, hnext⟩

theorem TracksOpen.of_fall {t : Ts} (h : levelAt es i = some true) (h' : levelAt es (i + 1) = some false)
    (ht : tsOf es (i + 1) = some t) : TracksOpen es (i + 1) (some t) :=
  ⟨i + 1, ht, fun _ => openLow_succ_of_fall h h'⟩

theorem TracksOpen.of_high (h : levelAt es i = some true) : TracksOpen es i none := fun _ => not_openLow_of_high h

theorem TracksOpen.of_low {op : Option Ts} (hop : TracksOpen es i op) (h : levelAt es i = some false)
    (h' : levelAt es (i + 1) = some false) : TracksOpen es (i + 1) op := by
  simpa only [TracksOpen, openLow_succ_of_low h h'] using hop

theorem TracksOpen.eq_none_of_high {op : Option Ts} (hop : TracksOpen es i op) (h : levelAt es i = some true) : op = none := by
  cases op with
  | none => rfl
  | some t =>
    obtain ⟨f, -, hf⟩ := hop
    exact absurd ((hf f).2 rfl) (not_openLow_of_high h)

/-- R133: the matcher, with the interval open at edge `i` in hand, finds the kept intervals that close after it. -/
theorem exists_pulsesAfter_extractFrom (w : Nat) (es : List Edge) {i : Nat} {op : Option Ts} {rest : List Edge}
    (hdrop : es.drop i = rest) (hop : TracksOpen es i op) : ∃ pairs, PulsesAfter w es i pairs (extractFrom w op rest) := by
  fun_induction extractFrom w op rest generalizing i with
  | case1 op a b rest hfall ih =>
    obtain ⟨hla, hlb, htb, hnext⟩ := edges_of_drop hdrop
    obtain ⟨ha, hb⟩ : a.lvl = true ∧ b.lvl = false := by simpa using hfall
    rw [ha] at hla
    rw [hb] at hlb
    obtain ⟨pairs, h⟩ := ih hnext (.of_fall hla hlb htb)
    exact ⟨pairs, h.skip (not_keptLow_of_low hlb)⟩
  | case2 a b rest hfall hrise ih =>
    obtain ⟨-, hlb, htb, hnext⟩ := edges_of_drop hdrop
    rw [(Bool.and_eq_true_iff.1 hrise).2] at hlb
    obtain ⟨pairs, h⟩ := ih hnext (.of_high hlb)
    exact ⟨pairs, h.skip (not_keptLow_of_not_openLow hop)⟩
  | case3 a b rest hfall hrise t hpos ih =>
    obtain ⟨-, hlb, htb, hnext⟩ := edges_of_drop hdrop
    rw [(Bool.and_eq_true_iff.1 hrise).2] at hlb
    obtain ⟨f, hf, hopen⟩ := hop
    obtain ⟨pairs, h⟩ := ih hnext (.of_high hlb)
    exact ⟨_, h.cons (fun o => by rw [keptLow_succ_iff hopen hf htb hlb, and_iff_left hpos]) ⟨hf, b.ts, htb, rfl⟩⟩
  | case4 a b rest hfall hrise t hpos ih =>
    obtain ⟨-, hlb, htb, hnext⟩ := edges_of_drop hdrop
    rw [(Bool.and_eq_true_iff.1 hrise).2] at hlb
    obtain ⟨f, hf, hopen⟩ := hop
    obtain ⟨pairs, h⟩ := ih hnext (.of_high hlb)
    exact ⟨pairs, h.skip fun o hk => hpos ((keptLow_succ_iff hopen hf htb hlb o).1 hk).2⟩
  | case5 op a b rest hfall hrise ih =>
    obtain ⟨hla, hlb, htb, hnext⟩ := edges_of_drop hdrop
    rw [level_eq_of_no_change _ _ hfall hrise] at hla
    cases hb : b.lvl with
    | false =>
      rw [hb] at hla hlb
      obtain ⟨pairs, h⟩ := ih hnext (hop.of_low hla hlb)
      exact ⟨pairs, h.skip (not_keptLow_of_low hlb)⟩
    | true =>
      rw [hb] at hla hlb
      obtain rfl := hop.eq_none_of_high hla
      obtain ⟨pairs, h⟩ := ih hnext (.of_high hlb)
      exact ⟨pairs, h.skip (not_keptLow_of_not_openLow hop)⟩
  | case6 rest op hshort =>
    have hlen := length_le_one_of_not_cons_cons hshort
    rw [← hdrop, List.length_drop] at hlen
    exact ⟨[], .nil (by omega)⟩

end Matcher

/-! ## The bounds of R137 -/

/-- A pulse starts at the timestamp in hand or at that of a later edge, each used once and in order. -/
theorem map_start_extractFrom_sublist (w : Nat) (op : Option Ts) (es : List Edge) :
    ((extractFrom w op es).map fun p => p.start).Sublist (op.toList ++ es.tail.map fun e => e.ts) := by
  fun_induction extractFrom w op es with
  | case1 op a b rest hfall ih => exact ih.trans (List.sublist_append_right _ _)
  | case2 a b rest hfall hrise ih => exact ih.cons _
  | case3 a b rest hfall hrise t hpos ih => exact (ih.cons _).cons_cons _
  | case4 a b rest hfall hrise t hpos ih => exact (ih.cons _).cons _
  | case5 op a b rest hfall hrise ih => exact ih.trans ((List.sublist_cons_self _ _).append_left _)
  | case6 es op hshort => exact List.nil_sublist _

/-- Settles O17: the matcher started at edge 0, where no interval is open, finds every kept interval. -/
theorem pulseListBounds : Obligations.PulseListBounds := by
  intro c es hc
  obtain ⟨-, -, hlo, -⟩ := hc
  refine ⟨?_, ?_, ?_, fun p hp => ?_⟩
  · obtain ⟨pairs, h⟩ := exists_pulsesAfter_extractFrom c.width es (i := 0) rfl (op := none) fun _ => not_openLow_zero
    refine ⟨pairs, h.sorted, fun o cl => (h.mem o cl).trans (and_iff_right_of_imp fun hk => ?_), h.pulses⟩
    obtain ⟨⟨-, hlt, -⟩, -⟩ := hk
    exact Nat.zero_lt_of_lt hlt
  · exact (map_start_extractFrom_sublist c.width none es).trans ((List.tail_sublist es).map _)
  · have := extractPulses_length c.width es
    omega
  · obtain ⟨hpos, b, a, hdur⟩ := dur_of_mem_extractFrom hp
    have := (wrapdiff_range (by omega : 1 ≤ c.width) b a).2
    omega

/-! ## The rising-edge lists -/

/-- What TRANSITION lists of the pair of edges `j` and `j + 1`. -/
def risingTAt (es : List Edge) (j : Nat) : Option Ts :=
  if levelAt es j = some false ∧ levelAt es (j + 1) = some true then tsOf es (j + 1) else none

/-- What LEVEL_HIGH lists of edge `j`. -/
def risingHAt (es : List Edge) (j : Nat) : Option Ts := if levelAt es j = some true then tsOf es j else none

theorem risingTAt_zero (a b : Edge) (rest : List Edge) :
    risingTAt (a :: b :: rest) 0 = if (!a.lvl && b.lvl) = true then some b.ts else none := by
  simp [risingTAt]

theorem risingHAt_zero (e : Edge) (es : List Edge) : risingHAt (e :: es) 0 = if e.lvl = true then some e.ts else none := by
  simp [risingHAt]

theorem risingTAt_succ (e : Edge) (es : List Edge) (j : Nat) : risingTAt (e :: es) (j + 1) = risingTAt es j := rfl

theorem risingHAt_succ (e : Edge) (es : List Edge) (j : Nat) : risingHAt (e :: es) (j + 1) = risingHAt es j := rfl

theorem filterMap_range_succ {α : Type} (f : Nat → Option α) (n : Nat) :
    (List.range (n + 1)).filterMap f = (f 0).toList ++ (List.range n).filterMap fun j => f (j + 1) := by
  rw [List.range_succ_eq_map, List.filterMap_cons, List.filterMap_map]
  cases f 0 <;> rfl

/-- R135, TRANSITION: by the pairs of neighbouring edges. -/
theorem risingT_eq_filterMap (es : List Edge) :
    risingT es = (List.range (es.length - 1)).filterMap (risingTAt es) := by
  fun_induction risingT es with
  | case1 a b rest hrise ih =>
    simp only [List.length_cons, Nat.add_sub_cancel] at ih ⊢
    simp only [filterMap_range_succ, risingTAt_zero, risingTAt_succ, if_pos hrise, ih]
    rfl
  | case2 a b rest hrise ih =>
    simp only [List.length_cons, Nat.add_sub_cancel] at ih ⊢
    simp only [filterMap_range_succ, risingTAt_zero, risingTAt_succ, if_neg hrise, ih]
    rfl
  | case3 es hshort =>
    rw [Nat.sub_eq_zero_of_le (length_le_one_of_not_cons_cons hshort)]
    rfl

/-- R135, LEVEL_HIGH: edge by edge. -/
theorem risingH_eq_filterMap (es : List Edge) : risingH es = (List.range es.length).filterMap (risingHAt es) := by
  induction es with
  | nil => rfl
  | cons e es ih =>
    rw [List.length_cons, filterMap_range_succ, risingHAt_zero]
    simp only [risingHAt_succ, ← ih]
    cases hl : e.lvl <;> simp [risingH, hl]

/-- Settles O28: the branch of EXTRACT in phase ANALYZE, and the two lists by index. -/
theorem extractStageEffect : Obligations.ExtractStageEffect :=
  ⟨fun s h => (exec_eq .extract s).trans (congrArg _ (if_pos h)),
    fun es => ⟨risingT_eq_filterMap es, risingH_eq_filterMap es⟩⟩

end Sys2Proof.Machine
end

section
/-! PROOFS. Stage 2, CLASSIFY (42_bit_classify.md): the range of each class, and what the stage hands over. -/

namespace Sys2Proof.Machine

open Sys2Proof

/-! ## The two ranges -/

/-- 42_bit_classify.md R151. -/
theorem not_one_range_of_zero_range {d : Int} (h : zeroMin ≤ d ∧ d ≤ zeroMax) : ¬ (oneMin ≤ d ∧ d ≤ oneMax) := by
  simp only [zeroMin, zeroMax, oneMin, oneMax] at *
  omega

/-! ## The classes -/

theorem classifyDur_eq_zero_iff (d : Int) : classifyDur d = .zero ↔ zeroMin ≤ d ∧ d ≤ zeroMax := by
  unfold classifyDur
  split_ifs with hz ho
  · exact iff_of_true rfl hz
  · exact iff_of_false nofun hz
  · exact iff_of_false nofun hz

/-- The comparator asks for Zero first; R151 is why the range of One is not cut by that. -/
theorem classifyDur_eq_one_iff (d : Int) : classifyDur d = .one ↔ oneMin ≤ d ∧ d ≤ oneMax := by
  unfold classifyDur
  split_ifs with hz ho
  · exact iff_of_false nofun (not_one_range_of_zero_range hz)
  · exact iff_of_true rfl ho
  · exact iff_of_false nofun ho

theorem classifyDur_eq_invalid_iff_not_ranges (d : Int) :
    classifyDur d = .invalid ↔ ¬ (zeroMin ≤ d ∧ d ≤ zeroMax) ∧ ¬ (oneMin ≤ d ∧ d ≤ oneMax) := by
  rw [← classifyDur_eq_zero_iff, ← classifyDur_eq_one_iff]
  cases classifyDur d <;> decide

/-- The complement of the two ranges lies below, between and above them. -/
theorem classifyDur_eq_invalid_iff (d : Int) :
    classifyDur d = .invalid ↔ d < zeroMin ∨ (zeroMax < d ∧ d < oneMin) ∨ oneMax < d := by
  rw [classifyDur_eq_invalid_iff_not_ranges]
  simp only [zeroMin, zeroMax, oneMin, oneMax]
  omega

/-- Settles O19: the range of each class, and R151. -/
theorem classOfADuration : Obligations.ClassOfADuration := fun d =>
  ⟨classifyDur_eq_zero_iff d, classifyDur_eq_one_iff d, classifyDur_eq_invalid_iff d,
    fun ⟨hz, ho⟩ => not_one_range_of_zero_range hz ho⟩

/-! ## The stage -/

/-- In phase ANALYZE the operation is its stage (30_encoding.md R76). -/
theorem after_classify_of_analyze {s : State} (h : s.phase = .analyze) : after .classify s = classifyStage s := if_pos h

/-- Settles O29: the branch of CLASSIFY in phase ANALYZE. -/
theorem classifyStageEffect : Obligations.ClassifyStageEffect := fun s h =>
  (exec_eq .classify s).trans (congrArg _ (after_classify_of_analyze h))

end Sys2Proof.Machine
end

section
/-! PROOFS. Stage 3, SYNC (43_frame_sync.md): the classes of a window, the candidate of a marker, and what the stage hands over. -/

namespace Sys2Proof.Machine

open Sys2Proof

/-! ## The classes of a window -/

/-- The classes of the 59 pulses after pulse `i` (R162, R163); fewer at the end of the list. -/
def windowClasses (ps : List Pulse) (i : Nat) : List BitClass := ((classifyAll ps).drop (i + 1)).take frameLen

theorem windowClasses_getElem? (ps : List Pulse) (i : Nat) {k : Nat} (hk : k < frameLen) :
    (windowClasses ps i)[k]? = ps[i + 1 + k]?.map fun p => classifyDur p.dur := by
  rw [windowClasses, List.getElem?_take_of_lt hk, List.getElem?_drop, classifyAll, List.getElem?_map]

theorem windowClasses_length (ps : List Pulse) (i : Nat) : (windowClasses ps i).length = min 59 (ps.length - (i + 1)) := by
  simp [windowClasses, classifyAll, frameLen]

/-- R164's test of a window, pulse by pulse. -/
theorem invalid_notMem_windowClasses_iff {ps : List Pulse} {i : Nat} (hi : i + 59 ≤ ps.length - 1) :
    .invalid ∉ windowClasses ps i ↔ ∀ k, k < 59 → ∃ x, ps[i + 1 + k]? = some x ∧ classifyDur x.dur ≠ .invalid := by
  constructor
  · intro hno k hk
    have hlt : i + 1 + k < ps.length := by omega
    refine ⟨ps[i + 1 + k], List.getElem?_eq_getElem hlt, fun hinv => hno (List.mem_of_getElem? (i := k) ?_)⟩
    rw [windowClasses_getElem? ps i hk, List.getElem?_eq_getElem hlt, Option.map_some, hinv]
  · intro hall hmem
    obtain ⟨k, hget⟩ := List.mem_iff_getElem?.1 hmem
    have hk : k < 59 := by
      have hlen := (List.getElem?_eq_some_iff.1 hget).1
      rw [windowClasses_length] at hlen
      omega
    obtain ⟨x, hx, hvalid⟩ := hall k hk
    rw [windowClasses_getElem? ps i hk, hx] at hget
    exact hvalid (Option.some.inj hget)

/-! ## The frame vector -/

theorem testBit_classBits (cs : List BitClass) (k : Nat) : (classBits cs).testBit k = decide (cs[k]? = some .one) := by
  induction cs generalizing k with
  | nil => simp [classBits]
  | cons c cs ih =>
    have hbit : classBits (c :: cs) = Nat.bit (decide (c = .one)) (classBits cs) := by
      by_cases hc : c = .one <;> simp [classBits, hc, Nat.bit_val, Nat.add_comm]
    cases k with
    | zero => simp [hbit]
    | succ k => rw [hbit, Nat.testBit_bit_succ, ih, List.getElem?_cons_succ]

theorem frameVector_getLsbD (cs : List BitClass) {k : Nat} (hk : k < 59) :
    (frameVector cs).getLsbD k = decide (cs[k]? = some .one) := by
  rw [frameVector, BitVec.getLsbD_ofNat, testBit_classBits, decide_eq_true hk, Bool.true_and]

/-- R164: bit `k` of the window's vector is the class of pulse `i + 1 + k`. -/
theorem frameVector_windowClasses_getLsbD {ps : List Pulse} {i k : Nat} (hk : k < 59) {x : Pulse}
    (hx : ps[i + 1 + k]? = some x) :
    (frameVector (windowClasses ps i)).getLsbD k = decide (classifyDur x.dur = .one) := by
  rw [frameVector_getLsbD _ hk, windowClasses_getElem? ps i hk, hx, Option.map_some]
  exact decide_eq_decide.2 Option.some_inj

/-! ## The candidate of a marker -/

/-- For neighbouring pulses: the model's tests of the gap, the room for a window and its classes (R161, R162, R164). -/
theorem validWindowAfter_iff {w : Nat} {ps : List Pulse} {i : Nat} {p q : Pulse} (hp : ps[i]? = some p)
    (hq : ps[i + 1]? = some q) :
    ValidWindowAfter w ps i ↔
      (gapMark ≤ wrapdiff w q.start p.start ∧ i + frameLen + 1 ≤ ps.length) ∧ .invalid ∉ windowClasses ps i := by
  have hroom : i + frameLen + 1 ≤ ps.length ↔ i + 59 ≤ ps.length - 1 := by
    have := (List.getElem?_eq_some_iff.1 hq).1
    simp only [frameLen]
    omega
  have hgap : (∃ p q, ps[i]? = some p ∧ ps[i + 1]? = some q ∧ 1200000 ≤ wrapdiff w q.start p.start) ↔
      gapMark ≤ wrapdiff w q.start p.start := by
    simp [hp, hq, gapMark]
  rw [ValidWindowAfter, hgap, hroom, and_assoc, and_left_comm]
  exact and_congr_right fun _ => and_congr_right fun hi => (invalid_notMem_windowClasses_iff hi).symm

/-- R161 to R164: pulse `i` gives a candidate exactly when a valid window follows it, and then the window's vector. -/
theorem candidateAt_eq_some_iff {w : Nat} {ps : List Pulse} {i : Nat} {fb : FrameVec} :
    candidateAt w ps (classifyAll ps) i = some fb ↔
      ValidWindowAfter w ps i ∧ frameVector (windowClasses ps i) = fb := by
  unfold candidateAt
  split
  case h_1 p q hp hq =>
    rw [validWindowAfter_iff hp hq]
    change (if _ then if _ ∈ windowClasses ps i then none else some (frameVector (windowClasses ps i)) else none) = _ ↔ _
    split_ifs with hmark hinv
    · exact iff_of_false nofun fun ⟨⟨_, hno⟩, _⟩ => hno hinv
    · rw [Option.some_inj]
      exact (and_iff_right ⟨hmark, hinv⟩).symm
    · exact iff_of_false nofun fun ⟨⟨h, _⟩, _⟩ => hmark h
  case h_2 hno =>
    exact iff_of_false nofun fun ⟨⟨_, ⟨p, q, hp, hq, _⟩, _⟩, _⟩ => hno p q hp hq

/-! ## The candidates -/

/-- The elements that `filterMap` keeps, in order, each with what it gives. -/
theorem forall₂_filter_isSome_filterMap {α β : Type} (f : α → Option β) (l : List α) :
    List.Forall₂ (fun a b => f a = some b) (l.filter fun a => (f a).isSome) (l.filterMap f) := by
  induction l with
  | nil => exact .nil
  | cons a l ih =>
    cases h : f a with
    | none => simpa [h] using ih
    | some b => simpa [h] using ih

/-- The pulses that give a candidate, in order (R161, R165). -/
def candidateMarkers (w : Nat) (ps : List Pulse) : List Nat :=
  (List.range (ps.length - 1)).filter fun i => (candidateAt w ps (classifyAll ps) i).isSome

theorem pairwise_candidateMarkers (w : Nat) (ps : List Pulse) : (candidateMarkers w ps).Pairwise (fun i j => i < j) :=
  List.pairwise_lt_range.sublist List.filter_sublist

theorem mem_candidateMarkers_iff (w : Nat) (ps : List Pulse) (i : Nat) :
    i ∈ candidateMarkers w ps ↔ ValidWindowAfter w ps i := by
  simp only [candidateMarkers, List.mem_filter, List.mem_range, Option.isSome_iff_exists, candidateAt_eq_some_iff,
    exists_and_left, exists_eq', and_true]
  exact and_iff_right_of_imp fun ⟨hlen, _⟩ => by omega

/-- Settles O20: the pulses that give a candidate are those a valid window follows, and each gives its window's vector. -/
theorem candidatesAreTheValidWindowsAfterMarkers : Obligations.CandidatesAreTheValidWindowsAfterMarkers := by
  intro w ps
  have hvec := forall₂_filter_isSome_filterMap (candidateAt w ps (classifyAll ps)) (List.range (ps.length - 1))
  refine ⟨⟨candidateMarkers w ps, pairwise_candidateMarkers w ps, mem_candidateMarkers_iff w ps,
    hvec.imp fun i fb hfb k hk => ?_⟩, fun hshort => ?_⟩
  · obtain ⟨⟨_, _, hvalid⟩, rfl⟩ := candidateAt_eq_some_iff.1 hfb
    obtain ⟨x, hx, _⟩ := hvalid k hk
    exact ⟨x, hx, frameVector_windowClasses_getLsbD hk hx⟩
  · refine List.filterMap_eq_nil_iff.2 fun i _ => Option.eq_none_iff_forall_ne_some.2 fun fb hfb => ?_
    obtain ⟨⟨hlen, _⟩, _⟩ := candidateAt_eq_some_iff.1 hfb
    omega

/-! ## The stage -/

/-- In phase ANALYZE the operation is its stage (30_encoding.md R76). -/
theorem after_sync_of_analyze {s : State} (h : s.phase = .analyze) : after .sync s = syncStage s := if_pos h

/-- Over the classes of stage 2 the stage hands over `sync(PL)` (R163, R165). -/
theorem syncStage_of_classified {s : State} (h : s.work.classes = classifyAll s.work.pulses) :
    syncStage s = { s with work := { s.work with cands := syncPulses s.cfg.width s.work.pulses } } := by
  rw [syncStage, h, syncPulses]

/-- Settles O30: the branch of SYNC in phase ANALYZE, over the classes of stage 2. -/
theorem syncStageEffect : Obligations.SyncStageEffect := fun s hp hc => by
  rw [exec_eq, after_sync_of_analyze hp, syncStage_of_classified hc]

end Sys2Proof.Machine
end

section
/-! PROOFS. Stage 4, DECODE (44_frame_decode.md): which frames are accepted and to what record, what a flipped bit does, and what
the stage hands over. -/

namespace Sys2Proof.Machine

open Sys2Proof

/-! ## Frame bits, parity groups and weighted sums -/

theorem frameBit_le_one (fb : FrameVec) (k : Nat) : frameBit fb k ≤ 1 := Bool.toNat_le _

theorem bitCount_eq_sum_range' (fb : FrameVec) (lo n : Nat) :
    bitCount fb lo n = ((List.range' lo n).map (frameBit fb)).sum := by
  rw [bitCount, List.range'_eq_map_range, List.map_map]
  rfl

theorem bitCount_succ (fb : FrameVec) (lo n : Nat) : bitCount fb lo (n + 1) = bitCount fb lo n + frameBit fb (lo + n) := by
  simp [bitCount, List.range_succ]

/-- R184, for a parity bit that follows its field: field and parity bit are one group, whose count is even. -/
theorem parityOk_iff (fb : FrameVec) (lo n : Nat) :
    parityOk fb lo (lo + n) (lo + n + 1) = true ↔ bitCount fb lo (n + 2) % 2 = 0 := by
  rw [parityOk, beq_iff_eq, Nat.add_assoc lo n 1, Nat.add_sub_cancel_left, ← bitCount_succ]

/-- No field's value exceeds the sum of its weights (the value ranges of R180). -/
theorem bcd_le_sum (fb : FrameVec) (lo : Nat) (ws : List Nat) : bcd fb lo ws ≤ ws.sum := by
  induction ws generalizing lo with
  | nil => exact Nat.le_refl 0
  | cons w ws ih =>
    rw [bcd, List.sum_cons]
    exact Nat.add_le_add (mul_le_of_le_one_right (Nat.zero_le w) (frameBit_le_one fb lo)) (ih (lo + 1))

theorem bcd_lt {fb : FrameVec} {lo : Nat} {ws : List Nat} {m : Nat} (h : ws.sum < m) : bcd fb lo ws < m :=
  (bcd_le_sum fb lo ws).trans_lt h

/-! ## The record: no field is cut off by its width (R180, 10_state.md R33) -/

section Fields
variable (fb : FrameVec)

@[simp] theorem recordOf_minute_toNat : (recordOf fb).minute.toNat = minuteOf fb := toNat_ofNat_of_lt (bcd_lt (by decide))
@[simp] theorem recordOf_hour_toNat : (recordOf fb).hour.toNat = hourOf fb := toNat_ofNat_of_lt (bcd_lt (by decide))
@[simp] theorem recordOf_day_toNat : (recordOf fb).day.toNat = dayOf fb := toNat_ofNat_of_lt (bcd_lt (by decide))
@[simp] theorem recordOf_weekday_toNat : (recordOf fb).weekday.toNat = weekdayOf fb := toNat_ofNat_of_lt (bcd_lt (by decide))
@[simp] theorem recordOf_month_toNat : (recordOf fb).month.toNat = monthOf fb := toNat_ofNat_of_lt (bcd_lt (by decide))
@[simp] theorem recordOf_year_toNat : (recordOf fb).year.toNat = yearOf fb := toNat_ofNat_of_lt (bcd_lt (by decide))

/-- The two fields of eight bits, minute and year, have the same weights. -/
theorem bcd_weights8 (lo : Nat) :
    bcd fb lo weights8 = frameBit fb lo + 2 * frameBit fb (lo + 1) + 4 * frameBit fb (lo + 2) + 8 * frameBit fb (lo + 3)
      + 10 * frameBit fb (lo + 4) + 20 * frameBit fb (lo + 5) + 40 * frameBit fb (lo + 6) + 80 * frameBit fb (lo + 7) := by
  simp [bcd, weights8, Nat.add_assoc]

theorem hourOf_eq_weighted_sum :
    hourOf fb = frameBit fb 29 + 2 * frameBit fb 30 + 4 * frameBit fb 31 + 8 * frameBit fb 32
      + 10 * frameBit fb 33 + 20 * frameBit fb 34 + 40 * frameBit fb 35 := by
  simp [hourOf, bcd, weights7, Nat.add_assoc]

theorem dayOf_eq_weighted_sum :
    dayOf fb = frameBit fb 36 + 2 * frameBit fb 37 + 4 * frameBit fb 38 + 8 * frameBit fb 39
      + 10 * frameBit fb 40 + 20 * frameBit fb 41 := by
  simp [dayOf, bcd, weights6, Nat.add_assoc]

theorem weekdayOf_eq_weighted_sum : weekdayOf fb = frameBit fb 42 + 2 * frameBit fb 43 + 4 * frameBit fb 44 := by
  simp [weekdayOf, bcd, weights3, Nat.add_assoc]

theorem monthOf_eq_weighted_sum :
    monthOf fb = frameBit fb 45 + 2 * frameBit fb 46 + 4 * frameBit fb 47 + 8 * frameBit fb 48 + 10 * frameBit fb 49 := by
  simp [monthOf, bcd, weights5, Nat.add_assoc]

end Fields

/-! ## Acceptance -/

/-- The frames R192 accepts: the two fixed bits, and an even count in each parity group with its parity bit. -/
structure FrameAccepted (fb : FrameVec) : Prop where
  bit0 : fb.getLsbD 0 = false
  bit20 : fb.getLsbD 20 = true
  minuteEven : bitCount fb 21 9 % 2 = 0
  hourEven : bitCount fb 29 8 % 2 = 0

theorem frameTests_iff (fb : FrameVec) :
    (structureOk fb && minuteParityOk fb && hourParityOk fb) = true ↔ FrameAccepted fb := by
  rw [Bool.and_eq_true, Bool.and_eq_true, structureOk, Bool.and_eq_true, Bool.not_eq_true', minuteParityOk, hourParityOk,
    parityOk_iff fb 21 7, parityOk_iff fb 29 6]
  exact ⟨fun ⟨⟨⟨h0, h20⟩, hm⟩, hh⟩ => ⟨h0, h20, hm, hh⟩, fun ⟨h0, h20, hm, hh⟩ => ⟨⟨⟨h0, h20⟩, hm⟩, hh⟩⟩

theorem decodeFrame_eq_some_iff {fb : FrameVec} {r : Record} :
    decodeFrame fb = some r ↔ FrameAccepted fb ∧ recordOf fb = r := by
  rw [decodeFrame, Option.ite_none_right_eq_some, frameTests_iff, Option.some_inj]

theorem decodeFrame_eq_none_iff {fb : FrameVec} : decodeFrame fb = none ↔ ¬ FrameAccepted fb := by
  simp [Option.eq_none_iff_forall_ne_some, decodeFrame_eq_some_iff]

/-- Settles O21: the model's three tests say that the frame is accepted, and each field's sum is within its width. -/
theorem frameDecodesAllOrNothing : Obligations.FrameDecodesAllOrNothing := by
  refine fun fb => ⟨?_, fun r hr => ?_⟩
  · rw [ne_eq, decodeFrame_eq_none_iff, not_not, ← bitCount_eq_sum_range', ← bitCount_eq_sum_range']
    exact ⟨fun ⟨h0, h20, hm, hh⟩ => ⟨h0, h20, hm, hh⟩, fun ⟨h0, h20, hm, hh⟩ => ⟨h0, h20, hm, hh⟩⟩
  · obtain ⟨_, rfl⟩ := decodeFrame_eq_some_iff.1 hr
    simp only [recordOf_minute_toNat, recordOf_hour_toNat, recordOf_day_toNat, recordOf_weekday_toNat, recordOf_month_toNat,
      recordOf_year_toNat]
    exact ⟨bcd_weights8 fb 21, hourOf_eq_weighted_sum fb, dayOf_eq_weighted_sum fb, weekdayOf_eq_weighted_sum fb,
      monthOf_eq_weighted_sum fb, bcd_weights8 fb 50⟩

/-! ## A flipped bit -/

section Flip
variable {k : Nat} (fb : FrameVec)

theorem flipBit_getLsbD_self (hk : k < 59) : (flipBit fb k).getLsbD k = !fb.getLsbD k := by
  simp [flipBit, hk]

theorem flipBit_getLsbD_of_ne {j : Nat} (hj : k ≠ j) : (flipBit fb k).getLsbD j = fb.getLsbD j := by
  simp [flipBit, hj]

theorem frameBit_flipBit_self (hk : k < 59) : frameBit (flipBit fb k) k + frameBit fb k = 1 := by
  rw [frameBit, frameBit, flipBit_getLsbD_self _ hk]
  cases fb.getLsbD k <;> rfl

theorem frameBit_flipBit_of_ne {j : Nat} (hj : k ≠ j) : frameBit (flipBit fb k) j = frameBit fb j := by
  rw [frameBit, frameBit, flipBit_getLsbD_of_ne fb hj]

theorem bitCount_flipBit_of_notMem {lo n : Nat} (h : ¬ (lo ≤ k ∧ k < lo + n)) :
    bitCount (flipBit fb k) lo n = bitCount fb lo n := by
  induction n with
  | zero => rfl
  | succ n ih => rw [bitCount_succ, bitCount_succ, ih (by omega), frameBit_flipBit_of_ne fb (by omega)]

/-- A flip in a parity group breaks an even count and mends an odd one (R195). -/
theorem bitCount_flipBit_of_mem (hk : k < 59) {lo n : Nat} (h : lo ≤ k ∧ k < lo + n) :
    bitCount (flipBit fb k) lo n % 2 = (bitCount fb lo n + 1) % 2 := by
  induction n with
  | zero => omega
  | succ n ih =>
    rw [bitCount_succ, bitCount_succ]
    by_cases hlast : k = lo + n
    · subst hlast
      have hself := frameBit_flipBit_self fb hk
      rw [bitCount_flipBit_of_notMem fb (by omega)]
      omega
    · rw [frameBit_flipBit_of_ne fb hlast]
      have := ih (by omega)
      omega

theorem bcd_flipBit_of_notMem {lo : Nat} {ws : List Nat} (h : ¬ (lo ≤ k ∧ k < lo + ws.length)) :
    bcd (flipBit fb k) lo ws = bcd fb lo ws := by
  induction ws generalizing lo with
  | nil => rfl
  | cons w ws ih =>
    rw [List.length_cons] at h
    rw [bcd, bcd, ih (by omega), frameBit_flipBit_of_ne fb (by omega)]

/-- One bit of a field is one weight of its value, and no weight is 0. -/
theorem bcd_flipBit_ne_of_mem (hk : k < 59) {lo : Nat} {ws : List Nat} (hpos : 0 ∉ ws) (h : lo ≤ k ∧ k < lo + ws.length) :
    bcd (flipBit fb k) lo ws ≠ bcd fb lo ws := by
  induction ws generalizing lo with
  | nil => exact absurd h.2 (Nat.not_lt.2 h.1)
  | cons w ws ih =>
    rw [List.length_cons] at h
    obtain ⟨hw, hws⟩ : w ≠ 0 ∧ 0 ∉ ws := by simpa [eq_comm] using hpos
    rw [bcd, bcd]
    by_cases hfirst : k = lo
    · subst hfirst
      have hself := frameBit_flipBit_self fb hk
      have hbit : frameBit (flipBit fb k) k ≠ frameBit fb k := by omega
      rw [bcd_flipBit_of_notMem fb (by omega), ne_eq, Nat.add_right_cancel_iff, Nat.mul_right_inj hw]
      exact hbit
    · rw [frameBit_flipBit_of_ne fb hfirst, ne_eq, Nat.add_left_cancel_iff]
      exact ih hws (by omega)

/-- Each of bits 0, 20 and 21 to 36 is under one of the four tests, and the tests look at no other bit (R182, R195). -/
theorem frameAccepted_flipBit_iff (hk : k < 59) (h : FrameAccepted fb) :
    FrameAccepted (flipBit fb k) ↔ ¬ (k = 0 ∨ 20 ≤ k ∧ k ≤ 36) := by
  obtain ⟨h0, h20, hm, hh⟩ := h
  constructor
  · rintro ⟨h0', h20', hm', hh'⟩ (rfl | hmem)
    · rw [flipBit_getLsbD_self fb hk, h0] at h0'
      exact absurd h0' (by decide)
    obtain rfl | hminute | hhour : k = 20 ∨ (21 ≤ k ∧ k < 21 + 9) ∨ (29 ≤ k ∧ k < 29 + 8) := by omega
    · rw [flipBit_getLsbD_self fb hk, h20] at h20'
      exact absurd h20' (by decide)
    · rw [bitCount_flipBit_of_mem fb hk hminute] at hm'
      omega
    · rw [bitCount_flipBit_of_mem fb hk hhour] at hh'
      omega
  · intro hno
    exact
      { bit0 := by rw [flipBit_getLsbD_of_ne fb (by omega), h0]
        bit20 := by rw [flipBit_getLsbD_of_ne fb (by omega), h20]
        minuteEven := by rw [bitCount_flipBit_of_notMem fb (by omega), hm]
        hourEven := by rw [bitCount_flipBit_of_notMem fb (by omega), hh] }

/-- The six fields read bits 21 to 57 (R180, R182). -/
theorem recordOf_flipBit_of_unread (h : k ≤ 20 ∨ 58 ≤ k) : recordOf (flipBit fb k) = recordOf fb := by
  have hkeep {lo : Nat} {ws : List Nat} (hlo : 21 ≤ lo) (hhi : lo + ws.length ≤ 58) :
      bcd (flipBit fb k) lo ws = bcd fb lo ws := bcd_flipBit_of_notMem fb (by omega)
  simp only [recordOf, minuteOf, hourOf, dayOf, weekdayOf, monthOf, yearOf]
  congr 2 <;> exact hkeep (by decide) (by decide)

/-- A bit of 37 to 57 is a bit of the day, the weekday, the month or the year, whose value the flip changes (R195). -/
theorem recordOf_flipBit_ne (hk : k < 59) (h : 37 ≤ k ∧ k ≤ 57) : recordOf (flipBit fb k) ≠ recordOf fb := by
  intro heq
  obtain hmem | hmem | hmem | hmem : (36 ≤ k ∧ k < 36 + 6) ∨ (42 ≤ k ∧ k < 42 + 3) ∨ (45 ≤ k ∧ k < 45 + 5)
      ∨ (50 ≤ k ∧ k < 50 + 8) := by omega
  · have hday : dayOf (flipBit fb k) = dayOf fb := by simpa using congrArg (fun r => r.day.toNat) heq
    exact bcd_flipBit_ne_of_mem fb hk (ws := weights6) (by decide) hmem hday
  · have hweekday : weekdayOf (flipBit fb k) = weekdayOf fb := by simpa using congrArg (fun r => r.weekday.toNat) heq
    exact bcd_flipBit_ne_of_mem fb hk (ws := weights3) (by decide) hmem hweekday
  · have hmonth : monthOf (flipBit fb k) = monthOf fb := by simpa using congrArg (fun r => r.month.toNat) heq
    exact bcd_flipBit_ne_of_mem fb hk (ws := weights5) (by decide) hmem hmonth
  · have hyear : yearOf (flipBit fb k) = yearOf fb := by simpa using congrArg (fun r => r.year.toNat) heq
    exact bcd_flipBit_ne_of_mem fb hk (ws := weights8) (by decide) hmem hyear

end Flip

/-- Settles O22: the flip keeps the frame accepted outside bits 0, 20 and 21 to 36, and then the fields tell the two records apart
or not. -/
theorem singleBitFlips : Obligations.SingleBitFlips := by
  intro fb r k hr hk
  obtain ⟨hacc, rfl⟩ := decodeFrame_eq_some_iff.1 hr
  have hflip := frameAccepted_flipBit_iff fb hk hacc
  refine ⟨fun hbad => ?_, fun hunread => ?_, fun hread => ?_⟩
  · exact decodeFrame_eq_none_iff.2 fun hacc' => hflip.1 hacc' hbad
  · exact decodeFrame_eq_some_iff.2 ⟨hflip.2 (by omega), recordOf_flipBit_of_unread fb (by omega)⟩
  · exact ⟨_, decodeFrame_eq_some_iff.2 ⟨hflip.2 (by omega), rfl⟩, recordOf_flipBit_ne fb hk hread⟩

/-! ## An accepted frame for any value of a field -/

/-- The frame with bit `k` flipped if `c` asks for it. -/
def flipIf (c : Bool) (k : Nat) (fb : FrameVec) : FrameVec := if c then flipBit fb k else fb

section FlipIf
variable {k : Nat} (fb : FrameVec)

theorem flipIf_getLsbD_self (hk : k < 59) (c : Bool) : (flipIf c k fb).getLsbD k = (fb.getLsbD k ^^ c) := by
  cases c with
  | false => exact (Bool.xor_false _).symm
  | true => exact (flipBit_getLsbD_self fb hk).trans (Bool.xor_true _).symm

theorem flipIf_getLsbD_of_ne (c : Bool) {j : Nat} (hj : k ≠ j) : (flipIf c k fb).getLsbD j = fb.getLsbD j := by
  cases c with
  | false => rfl
  | true => exact flipBit_getLsbD_of_ne fb hj

theorem bitCount_flipIf_of_notMem (c : Bool) {lo n : Nat} (h : ¬ (lo ≤ k ∧ k < lo + n)) :
    bitCount (flipIf c k fb) lo n = bitCount fb lo n := by
  cases c with
  | false => rfl
  | true => exact bitCount_flipBit_of_notMem fb h

theorem bcd_flipIf_of_notMem (c : Bool) {lo : Nat} {ws : List Nat} (h : ¬ (lo ≤ k ∧ k < lo + ws.length)) :
    bcd (flipIf c k fb) lo ws = bcd fb lo ws := by
  cases c with
  | false => rfl
  | true => exact bcd_flipBit_of_notMem fb h

theorem bitCount_flipIf_odd (hk : k < 59) {lo n : Nat} (h : lo ≤ k ∧ k < lo + n) :
    bitCount (flipIf (bitCount fb lo n % 2 == 1) k fb) lo n % 2 = 0 := by
  cases hodd : bitCount fb lo n % 2 == 1 with
  | false =>
    have := ne_of_beq_false hodd
    change bitCount fb lo n % 2 = 0
    omega
  | true =>
    have := eq_of_beq hodd
    change bitCount (flipBit fb k) lo n % 2 = 0
    rw [bitCount_flipBit_of_mem fb hk h]
    omega

end FlipIf

/-- The frame with the two fixed bits put right (R180). -/
def fixStructure (fb : FrameVec) : FrameVec := flipIf (!fb.getLsbD 20) 20 (flipIf (fb.getLsbD 0) 0 fb)

theorem fixStructure_getLsbD_zero (fb : FrameVec) : (fixStructure fb).getLsbD 0 = false := by
  rw [fixStructure, flipIf_getLsbD_of_ne _ _ (by decide), flipIf_getLsbD_self _ (by decide), Bool.xor_self]

theorem fixStructure_getLsbD_twenty (fb : FrameVec) : (fixStructure fb).getLsbD 20 = true := by
  rw [fixStructure, flipIf_getLsbD_self _ (by decide), flipIf_getLsbD_of_ne _ _ (by decide), Bool.xor_not_self]

/-- The frame with the minute's parity put right at bit `p`. -/
def fixMinuteParity (p : Nat) (fb : FrameVec) : FrameVec := flipIf (bitCount fb 21 9 % 2 == 1) p fb

/-- The frame with the hour's parity put right at its parity bit. -/
def fixHourParity (fb : FrameVec) : FrameVec := flipIf (bitCount fb 29 8 % 2 == 1) 36 fb

/-- An accepted frame made from `fb` by flips at bits 0, 20, `p` and 36 only: the hour's parity last, because bit 29 is in both
parity groups (R181). -/
def repair (p : Nat) (fb : FrameVec) : FrameVec := fixHourParity (fixMinuteParity p (fixStructure fb))

theorem frameAccepted_repair {p : Nat} (hp : 21 ≤ p ∧ p < 30) (fb : FrameVec) : FrameAccepted (repair p fb) := by
  have hp59 : p < 59 := by omega
  constructor
  case bit0 =>
    rw [repair, fixHourParity, flipIf_getLsbD_of_ne _ _ (by decide), fixMinuteParity, flipIf_getLsbD_of_ne _ _ (by omega),
      fixStructure_getLsbD_zero]
  case bit20 =>
    rw [repair, fixHourParity, flipIf_getLsbD_of_ne _ _ (by decide), fixMinuteParity, flipIf_getLsbD_of_ne _ _ (by omega),
      fixStructure_getLsbD_twenty]
  case minuteEven =>
    rw [repair, fixHourParity, bitCount_flipIf_of_notMem _ _ (by decide)]
    exact bitCount_flipIf_odd _ hp59 hp
  case hourEven => exact bitCount_flipIf_odd _ (by decide) (by decide)

/-- A field that none of the four bits belongs to keeps its value. -/
theorem bcd_repair {p lo : Nat} {ws : List Nat} (hlo : 21 ≤ lo) (hhi : lo + ws.length ≤ 36)
    (hout : ¬ (lo ≤ p ∧ p < lo + ws.length)) (fb : FrameVec) : bcd (repair p fb) lo ws = bcd fb lo ws := by
  rw [repair, fixHourParity, bcd_flipIf_of_notMem _ _ (by omega),
    fixMinuteParity, bcd_flipIf_of_notMem _ _ hout,
    fixStructure, bcd_flipIf_of_notMem _ _ (by omega), bcd_flipIf_of_notMem _ _ (by omega)]

/-- Settles O23: the repaired frame has the minute of the given one, if its minute parity is mended at bit 29, and the hour, if at
bit 21. -/
theorem everyFieldValueDecodes : Obligations.EveryFieldValueDecodes := by
  refine fun fb => ⟨⟨repair 29 fb, _, decodeFrame_eq_some_iff.2 ⟨frameAccepted_repair (by decide) fb, rfl⟩, ?_⟩,
    ⟨repair 21 fb, _, decodeFrame_eq_some_iff.2 ⟨frameAccepted_repair (by decide) fb, rfl⟩, ?_⟩⟩
  · exact (recordOf_minute_toNat _).trans (bcd_repair (by decide) (by decide) (by decide) fb)
  · exact (recordOf_hour_toNat _).trans (bcd_repair (by decide) (by decide) (by decide) fb)

/-! ## The stage -/

/-- In phase ANALYZE the operation is its stage (30_encoding.md R76). -/
theorem after_decode_of_analyze {s : State} (h : s.phase = .analyze) : after .decode s = decodeStage s := if_pos h

/-- Settles O31: the branch of DECODE in phase ANALYZE. -/
theorem decodeStageEffect : Obligations.DecodeStageEffect := fun s h =>
  (exec_eq .decode s).trans (congrArg _ (after_decode_of_analyze h))

end Sys2Proof.Machine
end

section
/-! PROOFS. Stages 5 to 7, STATS, VERDICT and COMMIT, and ANALYZE (45_signal_classify.md): the statistics as counts over the
pulses, the verdict function and its form in integers, and what each stage hands over. -/

namespace Sys2Proof.Machine

open Sys2Proof

/-! ## Statistics -/

theorem count_classifyAll (k : BitClass) (ps : List Pulse) :
    (classifyAll ps).count k = ps.countP fun p => decide (classifyDur p.dur = k) := by
  rw [classifyAll, List.count, List.countP_map]
  exact List.countP_congr fun p _ => by simp

/-- Counting a class is counting its range of durations (R214, R215). -/
theorem count_classifyAll_of_iff {k : BitClass} {P : Int → Prop} [DecidablePred P] (h : ∀ d, classifyDur d = k ↔ P d)
    (ps : List Pulse) : (classifyAll ps).count k = ps.countP fun p => decide (P p.dur) := by
  rw [count_classifyAll]
  exact List.countP_congr fun p _ => by simp [h]

/-- Every class is one of the three. -/
theorem count_three_classes (cs : List BitClass) : cs.count .zero + cs.count .one + cs.count .invalid = cs.length := by
  induction cs with
  | nil => rfl
  | cons c cs ih => cases c <;> simp <;> omega

/-- What is neither Zero nor One is Invalid (R216). -/
theorem length_sub_counts_classifyAll (ps : List Pulse) :
    ps.length - (classifyAll ps).count .zero - (classifyAll ps).count .one = (classifyAll ps).count .invalid := by
  have h := count_three_classes (classifyAll ps)
  rw [classifyAll, List.length_map, ← classifyAll] at h
  omega

theorem spanOf_of_ends (w : Nat) {es : List Edge} {a b : Edge} (ha : es.head? = some a) (hb : es.getLast? = some b) :
    spanOf w es = wrapdiff w b.ts a.ts := by
  simp [spanOf, ha, hb]

theorem markerGapsOf_of_rising {c : Config} (h : c.markerGaps = .rising) (rising : List Ts) (ps : List Pulse) :
    markerGapsOf c rising ps = gaps c.width rising := by
  simp [markerGapsOf, h]

theorem markerGapsOf_of_pulseStart {c : Config} (h : c.markerGaps = .pulseStart) (rising : List Ts) (ps : List Pulse) :
    markerGapsOf c rising ps = gaps c.width (ps.map fun p => p.start) := by
  simp [markerGapsOf, pulseGaps, h]

/-- Settles O24: the class counts through the ranges of `classifyDur`, and the gaps by the parameter MARKER_GAPS. -/
theorem windowStatistics : Obligations.WindowStatistics := by
  intro c es ps rising df
  have hother := length_sub_counts_classifyAll ps
  refine ⟨rfl, fun a b => spanOf_of_ends c.width, count_classifyAll_of_iff classifyDur_eq_zero_iff ps,
    count_classifyAll_of_iff classifyDur_eq_one_iff ps, hother.trans (count_classifyAll .invalid ps), ?_, rfl, rfl,
    fun h => congrArg markerLikeOf (markerGapsOf_of_rising h rising ps),
    fun h => congrArg markerLikeOf (markerGapsOf_of_pulseStart h rising ps), rfl⟩
  calc (classifyAll ps).count .zero + (classifyAll ps).count .one
        + (ps.length - (classifyAll ps).count .zero - (classifyAll ps).count .one)
      = (classifyAll ps).length := by rw [hother, count_three_classes]
    _ = ps.length := List.length_map _

/-! ## The verdict function -/

section VerdictV

variable {sec mark nfr : Nat} {slr otr : Rat}

theorem verdictV_eq_likelySignal_iff :
    verdictV sec mark slr otr nfr = .likelySignal ↔
      sigSecMin ≤ sec ∧ sigMarkMin ≤ mark ∧ sigSlRatio ≤ slr ∧ otr ≤ sigOtherRatio ∧ 1 ≤ nfr := by
  unfold verdictV
  split_ifs with hs hn
  · exact iff_of_true rfl hs
  · exact iff_of_false nofun hs
  · exact iff_of_false nofun hs

/-- R225: the tests of LIKELY_SIGNAL come first, and `sec < 3` already fails them. -/
theorem verdictV_eq_likelyNoise_iff :
    verdictV sec mark slr otr nfr = .likelyNoise ↔ sec < noiseSecLim ∧ slr < noiseSlRatio ∧ noiseOtherRatio < otr := by
  unfold verdictV
  split_ifs with hs hn
  · refine iff_of_false nofun fun hn => ?_
    have hsec : sigSecMin < noiseSecLim := hs.1.trans_lt hn.1
    exact absurd hsec (by decide)
  · exact iff_of_true rfl hn
  · exact iff_of_false nofun hn

theorem verdictV_ne_none : verdictV sec mark slr otr nfr ≠ .none := by
  unfold verdictV
  split_ifs <;> decide

/-- With `sec` out of reach of LIKELY_NOISE, one failing test of LIKELY_SIGNAL leaves UNCERTAIN. -/
theorem verdictV_eq_uncertain (hsec : noiseSecLim ≤ sec)
    (h : ¬ (sigSecMin ≤ sec ∧ sigMarkMin ≤ mark ∧ sigSlRatio ≤ slr ∧ otr ≤ sigOtherRatio ∧ 1 ≤ nfr)) :
    verdictV sec mark slr otr nfr = .uncertain := by
  rw [verdictV, if_neg h, if_neg fun hn => absurd hn.1 hsec.not_gt]

end VerdictV

/-- Settles O26: the two outcomes by their tests. -/
theorem verdictOutcomesAreExclusive : Obligations.VerdictOutcomesAreExclusive := fun _ _ _ _ _ =>
  ⟨verdictV_eq_likelySignal_iff, verdictV_eq_likelyNoise_iff, verdictV_ne_none⟩

/-! ## The verdict in integers -/

section Ratios

variable {p : Nat} (hp : 1 ≤ p) (x : Nat)

include hp

theorem sigSlRatio_le_ratio_iff : sigSlRatio ≤ (x : Rat) / p ↔ 6 * p ≤ 10 * x := by
  rw [sigSlRatio, div_le_div_iff₀ (by norm_num) (by exact_mod_cast hp)]
  norm_cast
  omega

theorem ratio_le_sigOtherRatio_iff : (x : Rat) / p ≤ sigOtherRatio ↔ 10 * x ≤ 3 * p := by
  rw [sigOtherRatio, div_le_div_iff₀ (by exact_mod_cast hp) (by norm_num)]
  norm_cast
  omega

theorem ratio_lt_noiseSlRatio_iff : (x : Rat) / p < noiseSlRatio ↔ 10 * x < 5 * p := by
  rw [noiseSlRatio, div_lt_div_iff₀ (by exact_mod_cast hp) (by norm_num)]
  norm_cast
  omega

theorem noiseOtherRatio_lt_ratio_iff : noiseOtherRatio < (x : Rat) / p ↔ 5 * p < 10 * x := by
  rw [noiseOtherRatio, div_lt_div_iff₀ (by norm_num) (by exact_mod_cast hp)]
  norm_cast
  omega

end Ratios

/-- Settles O25: each test of `verdictOf` is the test of `verdictV`, cleared of its denominators. -/
theorem verdictIsTheRationalVerdict : Obligations.VerdictIsTheRationalVerdict := by
  intro st hp
  rw [← Nat.cast_add, verdictV, verdictOf]
  simp only [sigSlRatio_le_ratio_iff hp, ratio_le_sigOtherRatio_iff hp, ratio_lt_noiseSlRatio_iff hp,
    noiseOtherRatio_lt_ratio_iff hp]

/-- R232: when more than half of the pulses are Invalid, less than half are short or long. -/
theorem verdictOf_eq_likelyNoise {st : Stats} (hp : 1 ≤ st.pulseCount)
    (hsum : st.short + st.long + st.other = st.pulseCount) (hsec : st.secLike < noiseSecLim)
    (hother : noiseOtherRatio < (st.other : Rat) / st.pulseCount) : verdictOf st = .likelyNoise := by
  rw [verdictIsTheRationalVerdict st hp, ← Nat.cast_add, verdictV_eq_likelyNoise_iff]
  refine ⟨hsec, ?_, hother⟩
  rw [noiseOtherRatio_lt_ratio_iff hp] at hother
  rw [ratio_lt_noiseSlRatio_iff hp]
  omega

/-- Settles O27: at the boundary all five tests hold, and each move fails the one it names. -/
theorem verdictBoundaries : Obligations.VerdictBoundaries := by
  refine ⟨verdictV_eq_likelySignal_iff.2 ⟨by decide, by decide, le_rfl, le_rfl, by decide⟩, ?_, ?_, ?_, ?_, ?_,
    fun _ => verdictOf_eq_likelyNoise⟩
  · exact verdictV_eq_uncertain (by decide) fun ⟨hsec, _⟩ => absurd hsec (by decide)
  · exact verdictV_eq_uncertain (by decide) fun ⟨_, hmark, _⟩ => absurd hmark (by decide)
  · exact fun slr h => verdictV_eq_uncertain (by decide) fun ⟨_, _, hslr, _⟩ => absurd hslr h.not_ge
  · exact fun otr h => verdictV_eq_uncertain (by decide) fun ⟨_, _, _, hotr, _⟩ => absurd hotr h.not_ge
  · exact verdictV_eq_uncertain (by decide) fun ⟨_, _, _, _, hnfr⟩ => absurd hnfr (by decide)

/-! ## The stages -/

section Stages

variable {s : State} (h : s.phase = .analyze)

include h

/-- In phase ANALYZE each operation is its stage (30_encoding.md R76). -/
theorem after_stats_of_analyze : after .stats s = statsStage s := if_pos h

theorem after_verdict_of_analyze : after .verdict s = verdictStage s := if_pos h

theorem after_commit_of_analyze : after .commit s = commitStage s := if_pos h

theorem after_analyze_of_analyze : after .analyze s = analyzeWindow s := if_pos h

end Stages

theorem sampleOf_eq_getD (df : List Record) (k : Nat) : sampleOf df k = df[k]?.getD Record.zero := by
  unfold sampleOf
  cases df[k]? <;> rfl

/-- Settles O32: the branch of STATS in phase ANALYZE. -/
theorem statsStageEffect : Obligations.StatsStageEffect := fun s h =>
  (exec_eq .stats s).trans (congrArg _ (after_stats_of_analyze h))

/-- Settles O33: the branch of VERDICT in phase ANALYZE. -/
theorem verdictStageEffect : Obligations.VerdictStageEffect := fun s h =>
  (exec_eq .verdict s).trans (congrArg _ (after_verdict_of_analyze h))

/-- Settles O34: the branch of COMMIT in phase ANALYZE, and an empty sample slot as the default of a missing record. -/
theorem commitStageEffect : Obligations.CommitStageEffect := by
  intro s h
  rw [exec_eq, after_commit_of_analyze h, commitStage, fullResults]
  simp only [sampleOf_eq_getD, maxSamples]

/-! ## ANALYZE -/

/-- Settles O35: what ANALYZE changes (`analyzeWindow_frame`) and what it commits (`analyzeWindow_res`). -/
theorem analyzeCommitsTheWindowResult : Obligations.AnalyzeCommitsTheWindowResult := by
  intro s h
  rw [exec_eq, after_analyze_of_analyze h, analyzeWindow_frame, analyzeWindow_res]

end Sys2Proof.Machine
end

section
/-! PROOFS. Host access, one cycle (46_host_access.md): READ and NOP, a read without a side effect (R241), and when the result
registers change (R250). -/

namespace Sys2Proof.Machine

open Sys2Proof

/-! ## READ and NOP -/

/-- Settles O40: the state after READ. -/
theorem readDrivesTheRegister : Obligations.ReadDrivesTheRegister := fun s a en => exec_eq (.read a en) s

/-- Settles O43: the state after NOP. -/
theorem nopEffect : Obligations.NopEffect := fun s => exec_eq .nop s

/-! ## Reads have no side effect -/

/-- The state without what its last cycle drove: two states agree in it when they agree in all but the outputs. -/
def State.silenced (s : State) : State := { s with out := { regRdata := 0, busy := false } }

@[simp] theorem silenced_cfg (s : State) : s.silenced.cfg = s.cfg := rfl

@[simp] theorem snapshot_silenced (s : State) : snapshot s.silenced = snapshot s := snapshot_congr rfl rfl rfl

/-- ANALYZE depends on the parameters and the snapshot alone (45_signal_classify.md R230). -/
theorem analyzeWindow_silenced (s : State) : (analyzeWindow s.silenced).silenced = (analyzeWindow s).silenced := by
  rw [analyzeWindow_frame s.silenced, analyzeWindow_frame s]
  simp only [analyzeWindow_res, snapshot_silenced, silenced_cfg]
  rfl

theorem silenced_ite_congr {c c' : Prop} [Decidable c] [Decidable c'] (hc : c = c') {x y x' y' : State}
    (hx : x.silenced = x'.silenced) (hy : y.silenced = y'.silenced) :
    (if c then x else y).silenced = (if c' then x' else y').silenced := by
  subst hc
  split
  · exact hx
  · exact hy

/-- No operation depends on the outputs: neither the condition it is selected by nor what it writes. -/
theorem after_silenced (i : Instr) (s : State) : (after i s.silenced).silenced = (after i s).silenced := by
  cases i with
  | reset | read | nop => rfl
  | analyze => exact silenced_ite_congr rfl (analyzeWindow_silenced s) rfl
  | edge | start | snapClose | extract | classify | sync | decode | stats | verdict | commit =>
    exact silenced_ite_congr rfl rfl rfl

theorem foldl_after_silenced (is : List Instr) (s : State) :
    (is.foldl (fun s i => after i s) s.silenced).silenced = (is.foldl (fun s i => after i s) s).silenced := by
  induction is generalizing s with
  | nil => rfl
  | cons i is ih =>
    rw [List.foldl_cons, List.foldl_cons, ← ih, after_silenced, ih]

/-- States that differ in the outputs alone differ in them alone after the same operations. -/
theorem foldl_after_silenced_congr (is : List Instr) {s t : State} (h : s.silenced = t.silenced) :
    (is.foldl (fun s i => after i s) s).silenced = (is.foldl (fun s i => after i s) t).silenced := by
  rw [← foldl_after_silenced, h, foldl_after_silenced]

/-- A bundle's operations without its read (40_capture.md R100). -/
def storeOps (b : Bundle) : List Instr :=
  (if b.edgeValid then [.edge b.edgeTs b.edgeLvl b.capEn] else []) ++ if b.start then [.start] else []

/-- READ, and the NOP of a bundle that selects nothing, change the outputs alone. -/
theorem foldl_ops_silenced {b : Bundle} (hr : b.rst = false) (s : State) :
    (b.ops.foldl (fun s i => after i s) s).silenced = ((storeOps b).foldl (fun s i => after i s) s).silenced := by
  have hread : ((if b.regRd then [.read b.regAddr b.capEn] else []).foldl (fun s i => after i s) s).silenced =
      s.silenced := by
    split <;> rfl
  rw [Bundle.ops_eq, if_neg (by simp [hr])]
  split
  · rw [List.append_assoc, List.foldl_append]
    exact foldl_after_silenced_congr _ hread
  · next hno =>
    obtain ⟨⟨-, hedge⟩, hstart⟩ : (b.regRd = false ∧ b.edgeValid = false) ∧ b.start = false := by simpa using hno
    simp only [storeOps, hedge, hstart]
    rfl

/-- The state after a cycle, but for the outputs, without the bundle's read in it. -/
theorem foldl_cycleOps_silenced {s : State} (hr : (nextBundle s).rst = false) (u : State) :
    ((cycleOps s).foldl (fun s i => after i s) u).silenced =
      ((storeOps (nextBundle s) ++ internalOps s.phase (nextDraw s)).foldl (fun s i => after i s) u).silenced := by
  rw [cycleOps, if_neg (by simp [hr]), List.foldl_append, List.foldl_append]
  exact foldl_after_silenced_congr _ (foldl_ops_silenced hr u)

/-- Two cycles that begin alike and differ in their reads alone end in states that differ in the outputs alone. -/
theorem step_silenced_congr {s s' t : State} (hbegin : beginCycle s' = beginCycle s) (hdraw : nextDraw s' = nextDraw s)
    (hrst : (nextBundle s').rst = (nextBundle s).rst) (hops : storeOps (nextBundle s') = storeOps (nextBundle s))
    (h : step s = .next t) : ∃ t', step s' = .next t' ∧ t'.silenced = t.silenced := by
  have hphase : s'.phase = s.phase := by simpa using congrArg State.phase hbegin
  cases hr : (nextBundle s).rst with
  | true => exact ⟨t, by rw [← h, step_of_rst hr, step_of_rst (hrst.trans hr), hbegin], rfl⟩
  | false =>
    obtain ⟨hf, rfl⟩ := step_next h
    have hf' : cycleFaults s' = false := by rw [← hf, cycleFaults, cycleFaults, hrst, hphase]
    refine ⟨_, step_eq hf', ?_⟩
    rw [foldl_cycleOps_silenced hr, foldl_cycleOps_silenced (hrst.trans hr), hbegin, hops, hphase, hdraw]

theorem with_out_of_silenced_eq {s t : State} (h : s.silenced = t.silenced) : { s with out := t.out } = t :=
  congrArg (fun u : State => { u with out := t.out }) h

/-- Settles O48: another read changes neither how the cycle begins nor its reset, draws, edge or START. -/
theorem readsHaveNoSideEffect : Obligations.ReadsHaveNoSideEffect := by
  intro s t b rest rd a hs h
  obtain rfl := nextBundle_cons hs
  obtain ⟨t', hstep, hsame⟩ := step_silenced_congr (s := s)
    (s' := { s with stim := { nextBundle s with regRd := rd, regAddr := a } :: rest })
    (by simp only [beginCycle, State.busy, hs, List.tail_cons]) rfl rfl rfl h
  exact ⟨t', hstep, with_out_of_silenced_eq hsame⟩

/-! ## When the result registers change -/

theorem rst_of_reset_mem_cycleOps {s : State} (h : .reset ∈ cycleOps s) : (nextBundle s).rst = true := by
  by_contra hr
  rw [cycleOps, if_neg hr, List.mem_append] at h
  obtain hops | hint := h
  · exact reset_notMem_ops (by simpa using hr) hops
  · cases hp : s.phase <;> simp [hp] at hint

theorem analyze_notMem_ops (b : Bundle) : .analyze ∉ b.ops := fun h => by simpa using (List.mem_filter.1 h).1

/-- ANALYZE runs where the phase and the draw select it, and nowhere else (30_encoding.md R75). -/
theorem commits_of_analyze_mem_cycleOps {s : State} (h : .analyze ∈ cycleOps s) :
    s.phase = .analyze ∧ (nextDraw s).commit = true := by
  unfold cycleOps at h
  split at h
  · exact absurd h (analyze_notMem_ops _)
  · have hint := (List.mem_append.1 h).resolve_left (analyze_notMem_ops _)
    cases hp : s.phase with
    | idle | reserved => simp [hp] at hint
    | snap => simp [hp] at hint
    | analyze => simpa [hp] using hint

/-- Settles O50: of the operations of a cycle only RESET and ANALYZE write the result registers (`after_res`). -/
theorem resultsChangeOnlyAtCommitOrReset : Obligations.ResultsChangeOnlyAtCommitOrReset := by
  intro s t h hne
  by_contra hno
  obtain ⟨hr, hc⟩ := not_or.1 hno
  refine hne ?_
  rw [(step_next h).2]
  refine List.foldlRecOn (motive := fun u : State => u.res = s.res) _ _ rfl fun u hu i hi => ?_
  have hreset : i ≠ .reset := fun h => hr (rst_of_reset_mem_cycleOps (h ▸ hi))
  have hana : i ≠ .analyze := fun h => hc (commits_of_analyze_mem_cycleOps (h ▸ hi))
  have hcommit : i ≠ .commit := fun h => nomatch h ▸ cycleOp_of_mem_cycleOps hi
  exact (after_res hreset hana hcommit u).trans hu

end Sys2Proof.Machine
end

section
/-! PROOFS. Host access, from a START to its result (46_host_access.md R250, 70_reset_and_hazards.md R303): one cycle of an open
analysis, and the runs of such cycles. -/

namespace Sys2Proof.Machine

open Sys2Proof

/-! ## What a cycle takes from the environment -/

theorem SameEnvironment.trans {s t u : State} (h : SameEnvironment s t) (h' : SameEnvironment t u) : SameEnvironment s u where
  stim := h'.stim.trans h.stim
  draws := h'.draws.trans h.draws
  cycle := h'.cycle.trans h.cycle
  busy := h'.busy.trans h.busy

theorem SameSnapshot.trans {s t u : State} (h : SameSnapshot s t) (h' : SameSnapshot t u) : SameSnapshot s u where
  cfg := h'.cfg.trans h.cfg
  snapMem := h'.snapMem.trans h.snapMem
  snapLen := h'.snapLen.trans h.snapLen

/-- A cycle uses up one bundle and one pair of draws, where it begins. -/
theorem step_sameEnvironment {s t : State} (h : step s = .next t) : SameEnvironment (beginCycle s) t := by
  rw [(step_next h).2]
  exact List.foldlRecOn (motive := SameEnvironment (beginCycle s)) _ _ ⟨rfl, rfl, rfl, rfl⟩
    fun u hu i _ => hu.trans (after_sameEnvironment i u)

theorem step_cfg {s t : State} (h : step s = .next t) : t.cfg = s.cfg :=
  step_keeps (P := fun u => u.cfg = s.cfg) (fun _ hu => hu) (fun i u hu => (after_cfg i u).trans hu) rfl h

/-- The host asserts no reset in the next `n` cycles; a host without further input asserts none (log 2). -/
def NoReset (n : Nat) (s : State) : Prop := ∀ b ∈ s.stim.take n, b.rst = false

theorem NoReset.next {n : Nat} {s : State} (h : NoReset (n + 1) s) : (nextBundle s).rst = false := by
  cases hs : s.stim with
  | nil => rw [nextBundle_nil hs]; rfl
  | cons b rest =>
    rw [nextBundle_cons hs]
    exact h b (by simp [hs])

theorem NoReset.tail {n : Nat} {s t : State} (h : NoReset (n + 1) s) (ht : t.stim = s.stim.tail) : NoReset n t := by
  intro b hb
  rw [ht] at hb
  cases hs : s.stim with
  | nil => simp [hs] at hb
  | cons c rest =>
    rw [hs, List.tail_cons] at hb
    exact h b (by rw [hs, List.take_succ_cons]; exact List.mem_cons_of_mem c hb)

theorem nextDraw_of_getElem? {s : State} {d : Draw} (h : s.draws[0]? = some d) : nextDraw s = d := by
  obtain ⟨ds, hds⟩ : ∃ ds, s.draws = d :: ds := by
    cases hs : s.draws with
    | nil => simp [hs] at h
    | cons e ds => exact ⟨ds, by simpa [hs] using h⟩
  exact nextDraw_cons hds

/-! ## One cycle of an open analysis -/

/-- START is ignored while the block is busy (40_capture.md R116), and no other host operation moves the phase. -/
theorem after_op_of_busy {b : Bundle} (hr : b.rst = false) {i : Instr} (hi : i ∈ b.ops) {s : State} (hp : s.phase ≠ .idle) :
    SameSnapshot s (after i s) ∧ (after i s).phase = s.phase := by
  have hkeep {i : Instr} (hr : i ≠ .reset) (hs : i ≠ .start) (hphase : (after i s).phase = s.phase) :
      SameSnapshot s (after i s) ∧ (after i s).phase = s.phase := ⟨after_sameSnapshot hr hs s, hphase⟩
  have hmem := (List.mem_filter.1 hi).1
  simp only [List.mem_cons, List.not_mem_nil, or_false] at hmem
  obtain rfl | rfl | rfl | rfl | rfl := hmem
  · exact absurd hi (reset_notMem_ops hr)
  · exact hkeep (by simp) (by simp) (by simp)
  · exact hkeep (by simp) (by simp) (by simp)
  · rw [after_start_of_ne_idle hp]
    exact ⟨.refl s, rfl⟩
  · exact hkeep (by simp) (by simp) (by simp)

theorem foldl_ops_of_busy {b : Bundle} (hr : b.rst = false) {s : State} (hp : s.phase ≠ .idle) :
    SameSnapshot s (b.ops.foldl (fun s i => after i s) s) ∧ (b.ops.foldl (fun s i => after i s) s).phase = s.phase := by
  refine List.foldlRecOn (motive := fun u => SameSnapshot s u ∧ u.phase = s.phase) _ _ ⟨.refl s, rfl⟩ fun u hu i hi => ?_
  obtain ⟨hsame, hphase⟩ := hu
  obtain ⟨hsame', hphase'⟩ := after_op_of_busy hr hi (hphase ▸ hp)
  exact ⟨hsame.trans hsame', hphase'.trans hphase⟩

/-- The internal operation writes no snapshot. -/
theorem foldl_internalOps_sameSnapshot (p : Phase) (d : Draw) (s : State) :
    SameSnapshot s ((internalOps p d).foldl (fun s i => after i s) s) := by
  refine List.foldlRecOn (motive := SameSnapshot s) _ _ (.refl s) fun u hu i hi => hu.trans ?_
  cases p with
  | idle | reserved => simp at hi
  | snap =>
    obtain ⟨-, rfl⟩ : d.close = true ∧ i = .snapClose := by simpa using hi
    exact after_sameSnapshot (by simp) (by simp) u
  | analyze =>
    obtain ⟨-, rfl⟩ : d.commit = true ∧ i = .analyze := by simpa using hi
    exact after_sameSnapshot (by simp) (by simp) u

/-- A cycle without reset of a busy block, from `s` to `t`. -/
structure BusyCycle (s t : State) : Prop where
  noReset : (nextBundle s).rst = false
  next : step s = .next t
  sameSnapshot : SameSnapshot s t

/-- The host's operations and then the internal operation, from a state of the same snapshot and phase. -/
theorem step_of_busy {s : State} (hr : (nextBundle s).rst = false) (hp : s.phase = .snap ∨ s.phase = .analyze) :
    ∃ u, SameSnapshot s u ∧ u.phase = s.phase
      ∧ step s = .next ((internalOps s.phase (nextDraw s)).foldl (fun s i => after i s) u) := by
  have hidle : s.phase ≠ .idle := by rintro h; simp [h] at hp
  have hres : s.phase ≠ .reserved := by rintro h; simp [h] at hp
  obtain ⟨hsame, hphase⟩ := foldl_ops_of_busy hr (s := beginCycle s) hidle
  exact ⟨_, (beginCycle_sameSnapshot s).trans hsame, hphase, by rw [step_of_not_rst hr hres, runOps_eq, List.foldl_append]⟩

theorem exists_busyCycle {s : State} (hr : (nextBundle s).rst = false) (hp : s.phase = .snap ∨ s.phase = .analyze) :
    ∃ t, BusyCycle s t := by
  obtain ⟨u, hsame, -, hstep⟩ := step_of_busy hr hp
  exact ⟨_, hr, hstep, hsame.trans (foldl_internalOps_sameSnapshot _ _ _)⟩

section BusyCycle

variable {s t : State} (h : BusyCycle s t)

include h

theorem BusyCycle.draws : t.draws = s.draws.tail := (step_sameEnvironment h.next).draws

theorem BusyCycle.stim : t.stim = s.stim.tail := (step_sameEnvironment h.next).stim

/-- The result of the snapshot is the same one cycle later. -/
theorem BusyCycle.windowResults_eq : windowResults t.cfg (snapshot t) = windowResults s.cfg (snapshot s) := by
  rw [h.sameSnapshot.cfg, h.sameSnapshot.snapshot_eq]

theorem BusyCycle.phase_of_snap (hp : s.phase = .snap) : t.phase = if (nextDraw s).close then .analyze else .snap := by
  rw [phaseOrder s t h.next, h.noReset, hp]
  rfl

theorem BusyCycle.phase_of_analyze (hp : s.phase = .analyze) :
    t.phase = if (nextDraw s).commit then .idle else .analyze := by
  rw [phaseOrder s t h.next, h.noReset, hp]
  rfl

/-- A cycle that does not commit shows the old results. -/
theorem BusyCycle.res_of_not_commit (hc : s.phase = .analyze → (nextDraw s).commit = false) : t.res = s.res := by
  by_contra hne
  obtain hr | ⟨hp, hcommit⟩ := resultsChangeOnlyAtCommitOrReset s t h.next hne
  · simp [h.noReset] at hr
  · simp [hc hp] at hcommit

/-- The committing cycle leaves the result of the snapshot. -/
theorem BusyCycle.res_of_commit (hp : s.phase = .analyze) (hc : (nextDraw s).commit = true) :
    t.res = windowResults s.cfg (snapshot s) := by
  obtain ⟨u, hsame, hphase, hstep⟩ := step_of_busy h.noReset (.inr hp)
  obtain rfl : _ = t := Host.Outcome.next.inj (hstep.symm.trans h.next)
  simp only [hp, internalOps_analyze, hc, if_true, List.foldl_cons, List.foldl_nil]
  rw [after_analyze_res (hphase.trans hp), hsame.cfg, hsame.snapshot_eq]

end BusyCycle

/-! ## A window and an analysis of given lengths -/

theorem runCycles_succ {s t : State} (h : step s = .next t) (k : Nat) : runCycles (k + 1) s = runCycles k t := by
  rw [runCycles, h]

/-- The next `nSnap` cycles start in SNAP and the `nAna` after them in ANALYZE, with the old results; then the block is idle with
the result `r`. -/
structure CommitsAfter (nSnap nAna : Nat) (s : State) (r : Results) : Prop where
  busy : ∀ k, k < nSnap + nAna →
    ∃ v, runCycles k s = some v ∧ v.phase = (if k < nSnap then .snap else .analyze) ∧ v.res = s.res
  ends : ∃ u, runCycles (nSnap + nAna) s = some u ∧ u.phase = .idle ∧ u.res = r

/-- One cycle more, of the window or of the analysis, that keeps the results. -/
theorem CommitsAfter.of_busyCycle {n m n' m' : Nat} {s t : State} (ht : BusyCycle s t)
    (h : CommitsAfter n m t (windowResults t.cfg (snapshot t))) (hp : s.phase = if 0 < n' then .snap else .analyze)
    (hres : t.res = s.res) (hn : n = n' - 1) (hsum : n + m + 1 = n' + m') :
    CommitsAfter n' m' s (windowResults s.cfg (snapshot s)) where
  busy k hk := by
    cases k with
    | zero => exact ⟨s, rfl, hp, rfl⟩
    | succ k =>
      obtain ⟨v, hrun, hphase, hv⟩ := h.busy k (by omega)
      exact ⟨v, (runCycles_succ ht.next k).trans hrun, by simp only [hphase, hn, Nat.lt_sub_iff_add_lt], hv.trans hres⟩
  ends := by
    rw [← hsum, runCycles_succ ht.next, ← ht.windowResults_eq]
    exact h.ends

theorem commitsAfter_of_commit {s : State} (hp : s.phase = .analyze) (hr : (nextBundle s).rst = false)
    (hc : (nextDraw s).commit = true) : CommitsAfter 0 1 s (windowResults s.cfg (snapshot s)) where
  busy k hk := by
    obtain rfl : k = 0 := by omega
    exact ⟨s, rfl, hp, rfl⟩
  ends := by
    obtain ⟨t, ht⟩ := exists_busyCycle hr (.inr hp)
    exact ⟨t, runCycles_succ ht.next 0, by rw [ht.phase_of_analyze hp, if_pos hc], ht.res_of_commit hp hc⟩

theorem commitsAfter_analyze (m : Nat) {s : State} (hp : s.phase = .analyze) (hr : NoReset (m + 1) s)
    (hd : WindowDraws 0 (m + 1) s.draws) : CommitsAfter 0 (m + 1) s (windowResults s.cfg (snapshot s)) := by
  induction m generalizing s with
  | zero =>
    obtain ⟨d, ds, hds, hcommit, -⟩ := hd.next_commit
    exact commitsAfter_of_commit hp hr.next (by rw [nextDraw_cons hds, hcommit]; rfl)
  | succ m ih =>
    obtain ⟨d, ds, hds, hcommit, hd'⟩ := hd.next_commit
    obtain ⟨t, ht⟩ := exists_busyCycle hr.next (.inr hp)
    have hc : (nextDraw s).commit = false := by rw [nextDraw_cons hds, hcommit]; rfl
    have hphase : t.phase = .analyze := by rw [ht.phase_of_analyze hp, hc]; rfl
    have hrest := ih hphase (hr.tail ht.stim) (by rw [ht.draws, hds]; exact hd')
    exact .of_busyCycle ht hrest hp (ht.res_of_not_commit fun _ => hc) rfl (by omega)

theorem commitsAfter_snap (n m : Nat) {s : State} (hp : s.phase = .snap) (hr : NoReset (n + 1 + (m + 1)) s)
    (hd : WindowDraws (n + 1) (m + 1) s.draws) : CommitsAfter (n + 1) (m + 1) s (windowResults s.cfg (snapshot s)) := by
  induction n generalizing s with
  | zero =>
    rw [Nat.add_comm] at hr
    obtain ⟨d, ds, hds, hclose, hd'⟩ := hd.next_close
    obtain ⟨t, ht⟩ := exists_busyCycle hr.next (.inl hp)
    have hphase : t.phase = .analyze := by rw [ht.phase_of_snap hp, nextDraw_cons hds, hclose]; rfl
    have hrest := commitsAfter_analyze m hphase (hr.tail ht.stim) (by rw [ht.draws, hds]; exact hd')
    exact .of_busyCycle ht hrest hp (ht.res_of_not_commit (by simp [hp])) rfl (by omega)
  | succ n ih =>
    rw [Nat.succ_add] at hr
    obtain ⟨d, ds, hds, hclose, hd'⟩ := hd.next_close
    obtain ⟨t, ht⟩ := exists_busyCycle hr.next (.inl hp)
    have hphase : t.phase = .snap := by rw [ht.phase_of_snap hp, nextDraw_cons hds, hclose]; rfl
    have hrest := ih hphase (hr.tail ht.stim) (by rw [ht.draws, hds]; exact hd')
    exact .of_busyCycle ht hrest hp (ht.res_of_not_commit (by simp [hp])) rfl (by omega)

/-- Settles O58: the START cycle opens the window (O49) and keeps the results (O50); then the draws are followed. -/
theorem acceptedStartCommitsItsSnapshot : Obligations.AcceptedStartCommitsItsSnapshot := by
  intro s nSnap nAna hp hstart hSnap hAna hrst hlen hclose hcommit
  obtain ⟨n, rfl⟩ := Nat.exists_eq_add_of_le' hSnap
  obtain ⟨m, rfl⟩ := Nat.exists_eq_add_of_le' hAna
  have hr : NoReset (n + 1 + (m + 1) + 1) s := hrst
  have hnext : ∃ t, step s = .next t := ⟨_, step_eq (by simp [cycleFaults, hp])⟩
  obtain ⟨t, ht⟩ := hnext
  have henv := step_sameEnvironment ht
  have hphase : t.phase = .snap := by
    rw [phaseOrder s t ht, hr.next, hp, hstart]
    rfl
  have hres : t.res = s.res := by
    by_contra hne
    have := resultsChangeOnlyAtCommitOrReset s t ht hne
    simp [hr.next, hp] at this
  have hd : WindowDraws (n + 1) (m + 1) t.draws := by
    rw [henv.draws, beginCycle_draws]
    refine ⟨by rw [List.length_tail]; omega, fun k d hk hlt => ?_, fun k d hk hle hlt => ?_⟩
    · exact hclose (k + 1) d (by simpa using hk) (by omega) (by omega)
    · exact hcommit (k + 1) d (by simpa using hk) (by omega) (by omega)
  obtain ⟨hbusy, u, hrun, hidle, hu⟩ := commitsAfter_snap n m hphase (hr.tail henv.stim) hd
  refine ⟨t, u, ht, fun k hk hk' => ?_, (runCycles_succ ht _).trans hrun, hidle, by rw [hu, step_cfg ht]⟩
  obtain ⟨k, rfl⟩ := Nat.exists_eq_add_of_le' hk
  obtain ⟨v, hv, hvp, hvr⟩ := hbusy k (by omega)
  exact ⟨v, (runCycles_succ ht k).trans hv, by simp [hvp], hvr.trans hres⟩

/-! ## Draws that fire at some time -/

/-- Within `n` cycles the block is idle with the result `r`. -/
def CommitsWithin (n : Nat) (s : State) (r : Results) : Prop :=
  ∃ k u, k ≤ n ∧ runCycles k s = some u ∧ u.phase = .idle ∧ u.res = r

/-- A cycle of a busy block is one cycle off the bound, with the same result to come. -/
theorem CommitsWithin.of_busyCycle {n : Nat} {s t : State} (ht : BusyCycle s t)
    (h : CommitsWithin n t (windowResults t.cfg (snapshot t))) : CommitsWithin (n + 1) s (windowResults s.cfg (snapshot s)) := by
  obtain ⟨k, u, hk, hrun, hidle, hres⟩ := h
  exact ⟨k + 1, u, by omega, (runCycles_succ ht.next k).trans hrun, hidle, hres.trans ht.windowResults_eq⟩

theorem commitsWithin_of_commit {s : State} (hp : s.phase = .analyze) (hr : (nextBundle s).rst = false)
    (hc : (nextDraw s).commit = true) (n : Nat) : CommitsWithin (n + 1) s (windowResults s.cfg (snapshot s)) := by
  obtain ⟨u, hrun, hidle, hres⟩ := (commitsAfter_of_commit hp hr hc).ends
  exact ⟨0 + 1, u, by omega, hrun, hidle, hres⟩

/-- In phase ANALYZE the first commit draw to fire ends the cycle, at the latest the one given. -/
theorem commitsWithin_analyze {j : Nat} {d : Draw} (hd : d.commit = true) {s : State} (hp : s.phase = .analyze)
    (hr : NoReset (j + 1) s) (hj : s.draws[j]? = some d) : CommitsWithin (j + 1) s (windowResults s.cfg (snapshot s)) := by
  induction j generalizing s with
  | zero => exact commitsWithin_of_commit hp hr.next (by rw [nextDraw_of_getElem? hj, hd]) 0
  | succ j ih =>
    cases hc : (nextDraw s).commit with
    | true => exact commitsWithin_of_commit hp hr.next hc (j + 1)
    | false =>
      obtain ⟨t, ht⟩ := exists_busyCycle hr.next (.inr hp)
      refine .of_busyCycle ht (ih (by rw [ht.phase_of_analyze hp, hc]; rfl) (hr.tail ht.stim) ?_)
      rw [ht.draws, List.getElem?_tail, hj]

/-- In phase SNAP the first close draw to fire, at the latest the one given, opens the analysis before the commit draw given. -/
theorem commitsWithin_snap {i j : Nat} (hij : i < j) {c d : Draw} (hc : c.close = true) (hd : d.commit = true) {s : State}
    (hp : s.phase = .snap) (hr : NoReset (j + 1) s) (hi : s.draws[i]? = some c) (hj : s.draws[j]? = some d) :
    CommitsWithin (j + 1) s (windowResults s.cfg (snapshot s)) := by
  induction i generalizing s j with
  | zero =>
    obtain ⟨j, rfl⟩ := Nat.exists_eq_add_of_le' hij
    obtain ⟨t, ht⟩ := exists_busyCycle hr.next (.inl hp)
    have hphase : t.phase = .analyze := by rw [ht.phase_of_snap hp, nextDraw_of_getElem? hi, hc]; rfl
    exact .of_busyCycle ht (commitsWithin_analyze hd hphase (hr.tail ht.stim) (by rw [ht.draws, List.getElem?_tail, hj]))
  | succ i ih =>
    obtain ⟨j, rfl⟩ := Nat.exists_eq_add_of_le' (Nat.one_le_of_lt hij)
    obtain ⟨t, ht⟩ := exists_busyCycle hr.next (.inl hp)
    have hj' : t.draws[j]? = some d := by rw [ht.draws, List.getElem?_tail, hj]
    refine .of_busyCycle ht ?_
    have hphase := ht.phase_of_snap hp
    split at hphase
    · exact commitsWithin_analyze hd hphase (hr.tail ht.stim) hj'
    · exact ih (by omega) hphase (hr.tail ht.stim) (by rw [ht.draws, List.getElem?_tail, hi]) hj'

/-- Settles O59: from SNAP by the close draw and then the commit draw, from ANALYZE by the commit draw alone. -/
theorem drawsThatFireEndTheAnalysis : Obligations.DrawsThatFireEndTheAnalysis := by
  intro s i j di dj hp hrst hi hclose hij hj hcommit
  have hr : NoReset (j + 1) s := fun b hb => hrst b (List.mem_of_mem_take hb)
  obtain hp | hp := hp
  · exact commitsWithin_snap hij hclose hcommit hp hr hi hj
  · exact commitsWithin_analyze hcommit hp hr hj

end Sys2Proof.Machine
end

section
/-! PROOFS. Exceptions (60_exceptions.md): an analysis that ends in a skip (R261 to R263), which views an operation writes (R272),
and that nothing but the reserved phase stops a cycle (R278, R279). -/

namespace Sys2Proof.Machine

open Sys2Proof

/-! ## A skip -/

section Skip
variable (c : ResultCode) (s : State)

/-- After a skip every result register outside STATUS and SNAP_LEN reads 0; 0x01 and 0x02 show the capture state (10_state.md
R36). -/
theorem readReg_raiseSkip_eq_zero {a : RegAddr} (h0 : a ≠ 0x00) (h1 : a ≠ 0x01) (h2 : a ≠ 0x02) (h3 : a ≠ 0x03) (en : Bool) :
    readReg (raiseSkip c s) a en = 0 := by
  unfold readReg
  split
  case h_1 h => exact absurd (BitVec.eq_of_toNat_eq h) h0
  case h_2 h => exact absurd (BitVec.eq_of_toNat_eq h) h1
  case h_3 h => exact absurd (BitVec.eq_of_toNat_eq h) h2
  case h_4 h => exact absurd (BitVec.eq_of_toNat_eq h) h3
  case h_11 => exact BitVec.extractLsb'_zero
  all_goals rfl

/-- After a skip STATUS holds the code and, but for CAP_EN, nothing else (60_exceptions.md R261). -/
theorem statusWord_raiseSkip_toNat (en : Bool) :
    (statusWord (raiseSkip c s) en).toNat = 4 * c.code.toNat + 256 * en.toNat := by
  simp [statusWord_toNat, State.busy, State.snapOpen, Results.zero, Verdict.code]

end Skip

/-- Ending in a skip, ANALYZE commits the code and `L`, shows them alone in the result registers, and leaves the capture state
(60_exceptions.md R261). -/
theorem exec_analyze_of_raiseSkip {c : ResultCode} {s : State} (hp : s.phase = .analyze)
    (h : analyzeWindow s = raiseSkip c s) :
    ∃ t, exec .analyze s = .next t ∧ t.phase = .idle
      ∧ t.res = { Results.zero with result := c, snapLen := s.snapLen }
      ∧ (∀ a en, a ≠ 0x00 → a ≠ 0x01 → a ≠ 0x02 → a ≠ 0x03 → readReg t a en = 0)
      ∧ (readReg t 0x00 false).toNat = 4 * c.code.toNat
      ∧ (readReg t 0x03 false).toNat = s.snapLen.toNat
      ∧ t.capMem = s.capMem ∧ t.wptr = s.wptr ∧ t.count = s.count ∧ t.lastTs = s.lastTs ∧ t.lastValid = s.lastValid := by
  refine ⟨raiseSkip c s, by rw [exec_eq, after_analyze_of_analyze hp, h], rfl, rfl,
    fun a en h0 h1 h2 h3 => readReg_raiseSkip_eq_zero c s h0 h1 h2 h3 en, statusWord_raiseSkip_toNat c s false, ?_,
    rfl, rfl, rfl, rfl, rfl⟩
  exact BitVec.toNat_setWidth_of_le (by norm_num)

/-- Below 4 edges the analysis ends before stage 1 (41_pulse_extract.md R132). -/
theorem analyzeWindow_of_few_edges {s : State} (h : s.snapLen.toNat < 4) :
    analyzeWindow s = raiseSkip .insufficientEdges s := if_pos h

/-- Without a pulse it ends after stage 1 (41_pulse_extract.md R136). -/
theorem analyzeWindow_of_no_pulses {s : State} (h : 4 ≤ s.snapLen.toNat) (hps : extractPulses s.cfg.width (snapshot s) = []) :
    analyzeWindow s = raiseSkip .noClosedPulses s :=
  (if_neg h.not_gt).trans (if_pos hps)

/-- Settles O36: the skip of the first error class. -/
theorem fewEdgesCommitASkip : Obligations.FewEdgesCommitASkip := fun _ hp hlen =>
  exec_analyze_of_raiseSkip hp (analyzeWindow_of_few_edges hlen)

/-- Settles O37: the skip of the second error class. -/
theorem noPulsesCommitASkip : Obligations.NoPulsesCommitASkip := fun _ hp hlen hps =>
  exec_analyze_of_raiseSkip hp (analyzeWindow_of_no_pulses hlen hps)

/-! ## Which views an operation writes -/

/-- Settles O51: from the frames of each part of the state; EDGE is none of the operations they except. -/
theorem viewsAreDisjoint : Obligations.ViewsAreDisjoint := by
  intro i s t h hr
  obtain rfl := exec_next h
  constructor
  · intro he
    obtain ⟨-, hmem, hwptr, hcount, hts, hvalid⟩ := after_sameCapture hr he s
    exact ⟨hmem, hwptr, hcount, hts, hvalid⟩
  · rintro ⟨ts, lvl, en, rfl⟩
    obtain ⟨-, hmem, hlen⟩ := after_sameSnapshot (i := .edge ts lvl en) (by simp) (by simp) s
    exact ⟨after_edge_phase ts lvl en s, hmem, hlen, after_res (by simp) (by simp) (by simp) s⟩

/-! ## What stops a cycle -/

/-- The model's one fault (60_exceptions.md R279). -/
theorem cycleFaults_iff (s : State) : cycleFaults s = true ↔ s.phase = .reserved ∧ (nextBundle s).rst = false := by
  simp [cycleFaults, and_comm]

/-- Outside ANALYZE neither the operation nor a stage of it is selected (30_encoding.md R75, R76). -/
theorem after_analysis_op_of_ne_analyze {i : Instr}
    (hi : i ∈ [Instr.analyze, .extract, .classify, .sync, .decode, .stats, .verdict, .commit]) {s : State}
    (hp : s.phase ≠ .analyze) : after i s = s := by
  simp only [List.mem_cons, List.not_mem_nil, or_false] at hi
  obtain rfl | rfl | rfl | rfl | rfl | rfl | rfl | rfl := hi
  all_goals exact if_neg hp

/-- Settles O6: `exec_eq` completes each operation and `step_eq` each cycle that does not fault. -/
theorem nothingStopsTheBlock : Obligations.NothingStopsTheBlock := by
  refine ⟨fun i s => ⟨_, exec_eq i s⟩, fun s h => ?runs, fun s hp hr => ?faults, fun s hp => ?closes, fun s hp i hi => ?stages⟩
  case runs =>
    cases hf : cycleFaults s with
    | false => exact ⟨_, step_eq hf⟩
    | true =>
      obtain ⟨hp, hr⟩ := (cycleFaults_iff s).1 hf
      simp [hp, hr] at h
  case faults => exact if_pos ((cycleFaults_iff s).2 ⟨hp, hr⟩)
  case closes => exact (exec_eq .snapClose s).trans (congrArg _ (if_neg hp))
  case stages => rw [exec_eq, after_analysis_op_of_ne_analyze hi hp]

end Sys2Proof.Machine
end

section
/-! PROOFS. Reset and hazards (70_reset_and_hazards.md): what a RESET clears (R280, R281), what the host then reads and that the
cleared state is safe (R286), and the cycle in which an edge and a START meet (R293). -/

namespace Sys2Proof.Machine

open Sys2Proof

/-! ## A cleared state -/

/-- Every register that RESET writes is as RESET leaves it (70_reset_and_hazards.md R280). -/
structure Cleared (s : State) : Prop where
  wptr : s.wptr = 0
  count : s.count = 0
  lastValid : s.lastValid = false
  phase : s.phase = .idle
  snapLen : s.snapLen = 0
  res : s.res = Results.zero
  work : s.work = Work.empty

theorem after_reset_cleared (s : State) : Cleared (after .reset s) := ⟨rfl, rfl, rfl, rfl, rfl, rfl, rfl⟩

theorem reset_cleared : Cleared State.reset := ⟨rfl, rfl, rfl, rfl, rfl, rfl, rfl⟩

/-- A cleared state is one that an analysis left with the code NONE and length 0, so it reads like one. -/
theorem Cleared.eq_raiseSkip {s : State} (h : Cleared s) : s = raiseSkip .none s := by
  ext1
  case phase => exact h.phase
  case work => exact h.work
  case res =>
    rw [h.res, raiseSkip_res, h.snapLen]
    rfl
  all_goals rfl

theorem Cleared.statusWord_eq {s : State} (h : Cleared s) (en : Bool) :
    statusWord s en = if en = true then 0x100 else 0 := by
  apply BitVec.eq_of_toNat_eq
  rw [h.eq_raiseSkip, statusWord_raiseSkip_toNat]
  cases en <;> rfl

/-- Every register reads 0 but for STATUS.CAP_EN: the capture state and the length are cleared, and a skip with the code NONE has
committed nothing else. -/
theorem Cleared.readReg_eq {s : State} (h : Cleared s) (a : RegAddr) (en : Bool) :
    readReg s a en = if a = 0 ∧ en = true then 0x100 else 0 := by
  by_cases h0 : a = 0x00
  · subst h0
    rw [if_congr (and_iff_right rfl) rfl rfl]
    exact h.statusWord_eq en
  rw [if_neg (h0 ·.1)]
  by_cases h1 : a = 0x01
  · subst h1
    exact congrArg (BitVec.setWidth 32) h.count
  by_cases h2 : a = 0x02
  · subst h2
    exact congrArg (BitVec.setWidth 32) h.wptr
  by_cases h3 : a = 0x03
  · subst h3
    exact congrArg (fun r : Results => r.snapLen.setWidth 32) h.res
  rw [h.eq_raiseSkip]
  exact readReg_raiseSkip_eq_zero .none s h0 h1 h2 h3 en

/-- With an empty ring, of the capture invariant only what it says of the parameters and the RAM is left to ask. -/
theorem Cleared.captureInv {s : State} (h : Cleared s) (hc : s.cfg.Legal) (hwf : s.capMem.wf)
    (hslots : ∀ c ∈ s.capMem, c.1 < s.cfg.cap ∧ Ts.fits s.cfg.width c.2.ts) : CaptureInv s := by
  have hwptr : s.wptr.toNat = 0 := by rw [h.wptr]; rfl
  have hcount : s.count.toNat = 0 := by rw [h.count]; rfl
  have hring : captured s = [] := List.eq_nil_of_length_eq_zero (by rw [captured_length, hcount])
  exact
    { legal := hc, memWf := hwf, slots := hslots
      wptrLt := hwptr.trans_lt hc.1
      countLe := hcount.trans_le (Nat.zero_le _)
      wptrEq := fun _ => hwptr.trans hcount.symm
      written := fun j hj => absurd hj (by omega)
      valid := by simp [h.lastValid, hcount]
      newest := fun hv => by simp [h.lastValid] at hv
      spaced := by rw [hring]; exact fun _ hd => absurd hd List.not_mem_nil }

/-- An empty snapshot asks nothing but its RAM's form either. -/
theorem Cleared.snapInv {s : State} (h : Cleared s) (hwf : s.snapMem.wf)
    (hslots : ∀ c ∈ s.snapMem, c.1 < s.cfg.cap ∧ Ts.fits s.cfg.width c.2.ts) : SnapInv s := by
  have hlen : s.snapLen.toNat = 0 := by rw [h.snapLen]; rfl
  have hsnap : snapshot s = [] := List.eq_nil_of_length_eq_zero (by rw [snapshot_length, hlen])
  exact
    { memWf := hwf, slots := hslots
      lenLe := hlen.trans_le (Nat.zero_le _)
      written := fun j hj => absurd hj (by omega)
      spaced := by rw [hsnap]; exact fun _ hd => absurd hd List.not_mem_nil }

theorem Cleared.resultInv {s : State} (h : Cleared s) : ResultInv s.cfg s.res := by
  rw [h.res]
  exact resultInv_zero _

theorem Cleared.boundaryInv {s : State} (h : Cleared s) : BoundaryInv s := ⟨by simp [h.phase], h.work⟩

/-! ## Reset -/

/-- Settles O44: the state after RESET. -/
theorem resetEffect : Obligations.ResetEffect := fun s => exec_eq .reset s

/-- Settles O46: `State.reset` is cleared, and a cleared state reads so. -/
theorem resetStateIsClean : Obligations.ResetStateIsClean :=
  have ⟨hwptr, hcount, hvalid, hphase, hlen, hres, _⟩ := reset_cleared
  ⟨hwptr, hcount, hvalid, hphase, hlen, hres, reset_cleared.readReg_eq⟩

/-- Settles O57: `State.reset` is cleared, its parameters are legal, and its RAMs list no slot. -/
theorem resetIsSafe : Obligations.ResetIsSafe where
  capture := reset_cleared.captureInv (by decide) .nil nofun
  snap := reset_cleared.snapInv .nil nofun
  result := reset_cleared.resultInv
  boundary := reset_cleared.boundaryInv

/-- Settles O45: the cycle is the one operation RESET, run from the start of the cycle, which drives `busy`. -/
theorem resetOverridesTheCycle : Obligations.ResetOverridesTheCycle := by
  intro s hr
  have hstep : step s = .next (after .reset (beginCycle s)) := by rw [step_of_rst hr, runOps_singleton, exec_eq]
  have hclear := after_reset_cleared (beginCycle s)
  exact ⟨_, hstep, hclear.wptr, hclear.count, hclear.lastValid, hclear.phase, hclear.snapLen, hclear.res,
    rfl, rfl, rfl, rfl, rfl, rfl, hclear.readReg_eq⟩

/-! ## An edge and a START in one cycle -/

/-- EDGE appends an edge that is neither gated nor debounced (40_capture.md R101 to R104). -/
theorem after_edge_of_recorded {s : State} {ts : Ts} (hp : s.phase ≠ .snap)
    (hd : debounced s (zextTs s.cfg.width ts) = false) (lvl : Bool) :
    after (.edge ts lvl true) s = append s { ts := zextTs s.cfg.width ts, lvl := lvl } :=
  if_neg (by simp [hp, hd])

/-- EDGE comes before START (40_capture.md R100), so START finds the ring with the edge in it. -/
theorem foldl_storeOps_of_edge_start {b : Bundle} (hev : b.edgeValid = true) (hen : b.capEn = true) (hst : b.start = true)
    {s : State} (hp : s.phase = .idle) (hd : debounced s (zextTs s.cfg.width b.edgeTs) = false) :
    (storeOps b).foldl (fun s i => after i s) s =
      openSnapshot (append s { ts := zextTs s.cfg.width b.edgeTs, lvl := b.edgeLvl }) := by
  have hops : storeOps b = [.edge b.edgeTs b.edgeLvl true, .start] := by simp [storeOps, hev, hen, hst]
  rw [hops, List.foldl_cons, List.foldl_cons, List.foldl_nil, after_edge_of_recorded (by simp [hp]) hd,
    after_start_of_idle ((append_phase s _).trans hp)]

/-- Settles O13: but for what a READ drives, the cycle is EDGE and then START, and in IDLE no internal operation follows. -/
theorem edgeInTheStartCycleIsInTheSnapshot : Obligations.EdgeInTheStartCycleIsInTheSnapshot := by
  intro s b rest hs hp hr hst hev hen hd
  obtain rfl := nextBundle_cons hs
  have hfault : cycleFaults s = false := by simp [cycleFaults, hp]
  have hend := foldl_cycleOps_silenced hr (beginCycle s)
  rw [hp, internalOps_idle, List.append_nil, foldl_storeOps_of_edge_start hev hen hst (s := beginCycle s) hp hd] at hend
  refine ⟨_, step_eq hfault, congrArg State.phase hend, ?_⟩
  rw [← snapshot_silenced, hend, snapshot_silenced, snapshot_openSnapshot]
  exact captured_congr rfl rfl rfl rfl

end Sys2Proof.Machine
end
